-- ==== Sys2Proof/Word.lean ====
section
/-! DEFINITION. The words of the block: a byte of a frame and the tag of a pending request. -/

namespace Sys2Proof

/-- One unsigned 8-bit value (00_scope.md R10): every unit the block moves is one byte (20_memory.md R35). -/
abbrev Byte := BitVec 8

/-- The identity of one pending request, `TAG_WIDTH` = 16 bits (00_scope.md R8, decision D13).
DESIGN CHOICE, log entry 10: the width is fixed at the spec's value. -/
abbrev Tag := BitVec 16

end Sys2Proof
end

