-- ==== Sys2Proof/Config.lean ====
section
/-! DEFINITION. The implementation parameters of 00_scope.md R8 and their constraints (R9), the constants the
spec fixes, and the free values: what the spec leaves unspecified while the block goes on. -/

namespace Sys2Proof

/-- `SYNC_POLICY`: how SEEKING resynchronises (41_framer.md R63, R64; decision D2). -/
inductive SyncPolicy where
  | lookback
  | pairReset
  deriving DecidableEq, Repr

/-- `PAYLOAD_START`: 5 by default, or 6 (42_demux.md R72; decision D7). -/
inductive PayloadStart where
  | five
  | six
  deriving DecidableEq, Repr

/-- The index `PAYLOAD_START` stands for. -/
def PayloadStart.index : PayloadStart → Nat
  | .five => 5
  | .six => 6

/-- The parameters of 00_scope.md R8 that a build chooses. The defaults are the values R8 gives; for the two
OPEN ones, `NUM_ENDPOINTS` and `QUEUE_DEPTH`, they are those of 95_test_vectors.md (DESIGN CHOICE, log entry 8). -/
structure Config where
  rxCapacity : Nat := 259
  txCapacity : Nat := 64
  numEndpoints : Nat := 2
  queueDepth : Nat := 2
  timeoutMs : Nat := 40
  syncPolicy : SyncPolicy := .lookback
  payloadStart : PayloadStart := .five
  deriving DecidableEq, Repr

/-- The byte `PREAMBLE` repeats (00_scope.md R8). -/
def preambleByte : Byte := 0xFF

/-- `MAX_ID` (00_scope.md R8). -/
def maxId : Byte := 0xFC

/-- `BROADCAST_ID`, never used by the block (00_scope.md R8). -/
def broadcastId : Byte := 0xFE

/-- `FRAME_OVERHEAD`: 2 preamble bytes, id, length, command, address, checksum (00_scope.md R8). -/
def frameOverhead : Nat := 7

/-- `2 ^ TAG_WIDTH`, the number of tags (00_scope.md R8, R9). -/
def tagCount : Nat := 65536

/-- `MAX_PARAMS = TX_CAPACITY - FRAME_OVERHEAD` (00_scope.md R8; 90_conflicts.md C3). -/
def Config.maxParams (c : Config) : Nat := c.txCapacity - frameOverhead

/-- The parameter constraints of 00_scope.md R9; and, DEDUCED (log entry 9), that a transmit buffer holds a
frame without parameters and that `L = n + 3` fits in a byte for every `n <= MAX_PARAMS` (40_codec.md R58). -/
abbrev Config.Valid (c : Config) : Prop :=
  6 ≤ c.rxCapacity ∧ 1 ≤ c.numEndpoints ∧ 1 ≤ c.queueDepth ∧
    c.numEndpoints * c.queueDepth ≤ tagCount ∧ frameOverhead ≤ c.txCapacity ∧ c.txCapacity ≤ 259

/-- FREE VALUE (10_state.md R28; 93_implementation_defined.md S1), log entry 13: byte `i` of the receive buffer
after the `n`-th reset event. No body: nothing constrains it. -/
opaque Config.freeRxByte : Nat → Nat → Byte

/-- FREE VALUE, log entry 15: the byte a `NoPending` log carries for a slot number that is no byte
(60_exceptions.md R96 gives `a` as one byte and states no value above 255). -/
opaque Config.wideSlotByte : Nat → Byte

end Sys2Proof
end

