-- ==== Sys2Proof/Syntax.lean ====
section
/-! DEFINITION. The instructions of the block: one constructor per row of spec/opcode_table.json, the ten
wire-frame rows (30_encoding.md R49, R50) and the eight input events (R51). -/

namespace Sys2Proof

/-- One row of the opcode table with its operands.

A wire-frame row is a complete received frame of that command (R46): `id` is its byte 2 and `data` the bytes
from offset 5 up to the checksum, that is the address byte and the parameters, `L - 2` bytes in all (none for
the shortest frame, `L = 2`). The six UNKNOWN_COMMAND rows carry the command bits their mask leaves free.
An event row carries the arguments of R51. -/
inductive Instr where
  | response (id : Byte) (data : List Byte)
  | responseAlt (id : Byte) (data : List Byte)
  | read (id : Byte) (data : List Byte)
  | write (id : Byte) (data : List Byte)
  | unknown04 (low : BitVec 2) (id : Byte) (data : List Byte)
  | unknown08 (low : BitVec 3) (id : Byte) (data : List Byte)
  | unknown10 (low : BitVec 4) (id : Byte) (data : List Byte)
  | unknown20 (low : BitVec 5) (id : Byte) (data : List Byte)
  | unknown40 (low : BitVec 6) (id : Byte) (data : List Byte)
  | unknown80 (low : BitVec 7) (id : Byte) (data : List Byte)
  | rx (b : Byte)
  | expire (t : Tag)
  | register (id : Byte) (slot : Nat)
  | unregister (id : Byte)
  | query (id : Byte)
  | send (slot : Nat) (id cmd addr : Byte) (params : List Byte)
  | rawsend (bytes : List Byte)
  | reset
  deriving DecidableEq, Repr

end Sys2Proof
end

