-- ==== Sys2Proof/WellFormed.lean ====
section
/-! DEFINITION. Which instructions have an encoding: the length byte of a frame holds `L = data + 2`, and a slot
operand of an event packet has 16 bits. -/

namespace Sys2Proof

/-- A frame's length byte counts the command, the data and the checksum, so at most 253 data bytes fit
(30_encoding.md R47). -/
def frameDataFits (data : List Byte) : Bool := decide (data.length ≤ 253)

/-- The slot operand of an event packet has 16 bits. DESIGN CHOICE, log entry 3: R53 lets a slot be any natural
number; every slot that exists is below `2 ^ TAG_WIDTH` by R9. -/
def slotFits (slot : Nat) : Bool := decide (slot < 65536)

/-- The instruction has an encoding. -/
def Instr.wellFormed : Instr → Bool
  | .response _ data => frameDataFits data
  | .responseAlt _ data => frameDataFits data
  | .read _ data => frameDataFits data
  | .write _ data => frameDataFits data
  | .unknown04 _ _ data => frameDataFits data
  | .unknown08 _ _ data => frameDataFits data
  | .unknown10 _ _ data => frameDataFits data
  | .unknown20 _ _ data => frameDataFits data
  | .unknown40 _ _ data => frameDataFits data
  | .unknown80 _ _ data => frameDataFits data
  | .rx _ => true
  | .expire _ => true
  | .register _ slot => slotFits slot
  | .unregister _ => true
  | .query _ => true
  | .send slot _ _ _ _ => slotFits slot
  | .rawsend _ => true
  | .reset => true

end Sys2Proof
end

