-- ==== Sys2Proof/Decode.lean ====
section
/-! DEFINITION. The codec (40_codec.md), the decoder of wire frames and of event packets, and after it the
encoder. A wire frame's bytes are those of 30_encoding.md R46; an event packet is the transaction code of R52
followed by the operands of R51 in their order (operand layout: DESIGN CHOICE, log entry 3). -/

namespace Sys2Proof

/-! ### The codec, 40_codec.md R56 to R59 -/

/-- `sum8` (00_scope.md R11). -/
def sum8 : List Byte → Byte
  | [] => 0
  | x :: xs => x + sum8 xs

/-- R56: the bitwise complement of the sum. -/
def checksum (xs : List Byte) : Byte := ~~~ (sum8 xs)

/-- The half-open slice `xs[a .. b)` of 00_scope.md R11, empty when `b <= a`. -/
def slice (xs : List Byte) (a b : Nat) : List Byte := (xs.take b).drop a

/-- The frame of 30_encoding.md R46 around an id, a command and the bytes between command and checksum. -/
def wireFrame (id cmd : Byte) (data : List Byte) : List Byte :=
  let body := id :: BitVec.ofNat 8 (data.length + 2) :: cmd :: data
  preambleByte :: preambleByte :: (body ++ [checksum body])

/-- Why `encodeFrame` builds no frame. -/
inductive EncodeError where
  /-- R58: more parameters than the transmit buffer holds. -/
  | encodeOverflow
  deriving DecidableEq, Repr

/-- R58: `encode(id, cmd, addr, params)`, for a build whose `MAX_PARAMS` is `maxParams`. -/
def encodeFrame (maxParams : Nat) (id cmd addr : Byte) (params : List Byte) : Except EncodeError (List Byte) :=
  if maxParams < params.length then .error .encodeOverflow
  else .ok (wireFrame id cmd (addr :: params))

/-- The error values of `decode` (R59, decision D29). -/
inductive FrameError where
  | notAFrame
  | checksumMismatch
  deriving DecidableEq, Repr

/-- R59: `decode(f)`. The block never calls it; it is the inverse R60 speaks of. -/
def decodeFrame (f : List Byte) : Except FrameError (Byte × Byte × Byte × List Byte) :=
  if f.length < 7 ∨ f.getD 0 0 ≠ preambleByte ∨ f.getD 1 0 ≠ preambleByte then .error .notAFrame
  else if f.length ≠ 4 + (f.getD 3 0).toNat then .error .notAFrame
  else if checksum (slice f 2 (f.length - 1)) ≠ f.getD (f.length - 1) 0 then .error .checksumMismatch
  else .ok (f.getD 2 0, f.getD 4 0, f.getD 5 0, slice f 6 (f.length - 1))

/-! ### Command bytes, 30_encoding.md R49 -/

def cmdResponse : Byte := 0x00
def cmdResponseAlt : Byte := 0x01
def cmdRead : Byte := 0x02
def cmdWrite : Byte := 0x03

/-- The command byte of an UNKNOWN_COMMAND row: the row's matched bits above its free ones. -/
def cmdUnknown04 (low : BitVec 2) : Byte := 0b000001#6 ++ low
def cmdUnknown08 (low : BitVec 3) : Byte := 0b00001#5 ++ low
def cmdUnknown10 (low : BitVec 4) : Byte := 0b0001#4 ++ low
def cmdUnknown20 (low : BitVec 5) : Byte := 0b001#3 ++ low
def cmdUnknown40 (low : BitVec 6) : Byte := 0b01#2 ++ low
def cmdUnknown80 (low : BitVec 7) : Byte := 0b1#1 ++ low

/-- The class of a received frame by its command byte (R49, R50): exactly one row of the opcode table. -/
def wireInstr (cmd id : Byte) (data : List Byte) : Instr :=
  if cmd = cmdResponse then .response id data
  else if cmd = cmdResponseAlt then .responseAlt id data
  else if cmd = cmdRead then .read id data
  else if cmd = cmdWrite then .write id data
  else if cmd < 0x08 then .unknown04 (cmd.setWidth 2) id data
  else if cmd < 0x10 then .unknown08 (cmd.setWidth 3) id data
  else if cmd < 0x20 then .unknown10 (cmd.setWidth 4) id data
  else if cmd < 0x40 then .unknown20 (cmd.setWidth 5) id data
  else if cmd < 0x80 then .unknown40 (cmd.setWidth 6) id data
  else .unknown80 (cmd.setWidth 7) id data

/-! ### The decoder -/

/-- Why bytes are no instruction. -/
inductive DecodeError where
  /-- no byte at all -/
  | empty
  /-- the first byte is no transaction code of R52: codes 0x8 and above are not events -/
  | notAnEvent
  /-- an event packet whose operands are too few or too many -/
  | wrongOperands
  /-- no preamble, or a byte count other than `4 + L` (R46) -/
  | notAFrame
  /-- `L < 2` (R50, 41_framer.md R67) -/
  | lengthError
  /-- 40_codec.md R57 -/
  | checksumMismatch
  deriving DecidableEq, Repr

/-- Two operand bytes, the high one first (DESIGN CHOICE, log entry 3). -/
def operand16 (hi lo : Byte) : BitVec 16 := hi ++ lo

/-- One operand byte. -/
def take1 (k : Byte → Instr) : List Byte → Except DecodeError Instr
  | [a] => .ok (k a)
  | _ => .error .wrongOperands

/-- A 16-bit operand. -/
def take2 (k : BitVec 16 → Instr) : List Byte → Except DecodeError Instr
  | [hi, lo] => .ok (k (operand16 hi lo))
  | _ => .error .wrongOperands

/-- A byte and a 16-bit operand. -/
def take3 (k : Byte → BitVec 16 → Instr) : List Byte → Except DecodeError Instr
  | [a, hi, lo] => .ok (k a (operand16 hi lo))
  | _ => .error .wrongOperands

/-- A 16-bit operand, three bytes, and the bytes that follow. -/
def takeSend (k : BitVec 16 → Byte → Byte → Byte → List Byte → Instr) : List Byte → Except DecodeError Instr
  | hi :: lo :: id :: cmd :: addr :: params => .ok (k (operand16 hi lo) id cmd addr params)
  | _ => .error .wrongOperands

/-- No operand. -/
def take0 (i : Instr) : List Byte → Except DecodeError Instr
  | [] => .ok i
  | _ => .error .wrongOperands

/-- The operands of the event with transaction code `code` (R51, R52); codes 0x8 and above are not events. -/
def decodeOperands (code : Nat) (ops : List Byte) : Except DecodeError Instr :=
  match code with
  | 0 => take1 .rx ops
  | 1 => take2 .expire ops
  | 2 => take3 (fun id slot => .register id slot.toNat) ops
  | 3 => take1 .unregister ops
  | 4 => take1 .query ops
  | 5 => takeSend (fun slot => .send slot.toNat) ops
  | 6 => .ok (.rawsend ops)
  | 7 => take0 .reset ops
  | _ => .error .notAnEvent

/-- One event packet. -/
def decodeEvent : List Byte → Except DecodeError Instr
  | [] => .error .empty
  | c :: ops => decodeOperands c.toNat ops

/-- One complete received frame: the tests of 41_framer.md R67 (a buffer that holds it) and the class of its
command byte. -/
def decodeWire : List Byte → Except DecodeError Instr
  | p0 :: p1 :: id :: len :: rest =>
    if p0 ≠ preambleByte ∨ p1 ≠ preambleByte then .error .notAFrame
    else if rest.length ≠ len.toNat then .error .notAFrame
    else if len < 2 then .error .lengthError
    else if checksum (id :: len :: rest.dropLast) ≠ rest.getLastD 0 then .error .checksumMismatch
    else
      match rest.dropLast with
      | cmd :: data => .ok (wireInstr cmd id data)
      | [] => .error .lengthError
  | _ => .error .notAFrame

/-- Any bytes: a frame where they open with the preamble, else an event packet (`FF` is no transaction code). -/
def decode (bs : List Byte) : Except DecodeError Instr :=
  if bs.take 2 = [preambleByte, preambleByte] then decodeWire bs else decodeEvent bs

/-! ### The encoder -/

/-- The high and the low byte of a 16-bit operand. -/
def hiByte (v : BitVec 16) : Byte := v.extractLsb' 8 8
def loByte (v : BitVec 16) : Byte := v.extractLsb' 0 8

/-- The bytes of an instruction: its frame, or its event packet. -/
def encode : Instr → List Byte
  | .response id data => wireFrame id cmdResponse data
  | .responseAlt id data => wireFrame id cmdResponseAlt data
  | .read id data => wireFrame id cmdRead data
  | .write id data => wireFrame id cmdWrite data
  | .unknown04 low id data => wireFrame id (cmdUnknown04 low) data
  | .unknown08 low id data => wireFrame id (cmdUnknown08 low) data
  | .unknown10 low id data => wireFrame id (cmdUnknown10 low) data
  | .unknown20 low id data => wireFrame id (cmdUnknown20 low) data
  | .unknown40 low id data => wireFrame id (cmdUnknown40 low) data
  | .unknown80 low id data => wireFrame id (cmdUnknown80 low) data
  | .rx b => [0x0, b]
  | .expire t => [0x1, hiByte t, loByte t]
  | .register id slot => [0x2, id, hiByte (BitVec.ofNat 16 slot), loByte (BitVec.ofNat 16 slot)]
  | .unregister id => [0x3, id]
  | .query id => [0x4, id]
  | .send slot id cmd addr params =>
    0x5 :: hiByte (BitVec.ofNat 16 slot) :: loByte (BitVec.ofNat 16 slot) :: id :: cmd :: addr :: params
  | .rawsend bytes => 0x6 :: bytes
  | .reset => [0x7]

/-! ### The opcode table's numbering of the bits -/

/-- The bits `w` as bytes, bit 0 the least significant bit of the first byte. -/
def tableBytes : Nat → Nat → List Byte
  | 0, _ => []
  | n + 1, w => BitVec.ofNat 8 w :: tableBytes n (w / 256)

/-- How many operand bytes the event with this code has at least. -/
def operandCount (code : Nat) : Nat :=
  match code with
  | 0 => 1
  | 1 => 2
  | 2 => 3
  | 3 => 1
  | 4 => 1
  | 5 => 5
  | _ => 0

/-- `ops` with zero bytes behind it, up to `n` bytes. -/
def padOperands (ops : List Byte) (n : Nat) : List Byte := ops ++ List.replicate (n - ops.length) 0

/-- The instruction of a table word. The table numbers an event row by its transaction code and a wire-frame row
by its command byte, both from bit 0, so the words 0 to 7 stand for a row of either kind: they are read as
events, whose code is the first byte of their packet; a first byte of 8 or more, which is no event code, is read
as the command byte of a frame from device 0 without data (DESIGN CHOICE, log entry 6). -/
def decodeTableWord (nbits w : Nat) : Option Instr :=
  match tableBytes ((nbits + 7) / 8) w with
  | [] => none
  | c :: ops =>
    if c < 8 then (decodeEvent (c :: padOperands ops (operandCount c.toNat))).toOption
    else (decodeWire (wireFrame 0 c [])).toOption

end Sys2Proof
end

