-- ==== Sys2Proof/Machine/State.lean ====
section
/-! DEFINITION. The state of the block (10_state.md), what it can emit (30_encoding.md R54), the reasons a step
can stop, and the state after reset (R28). -/

namespace Sys2Proof.Machine

/-- 10_state.md R18. -/
inductive FState where
  | seeking
  | header
  | body
  deriving DecidableEq, Repr

/-- The binary encoding of R18 (decision D21); no rule depends on it. -/
def FState.code : FState → BitVec 2
  | .seeking => 0
  | .header => 1
  | .body => 2

/-- The causes of the sticky fault, 10_state.md R25. -/
inductive Cause where
  | encodeOverflow
  deriving DecidableEq, Repr

/-- The kinds of a `Log` output, 60_exceptions.md R96. -/
inductive LogKind where
  | checksumMismatch
  | unknownId
  | unknownCommand
  | lengthError
  | rxOverflow
  | noPending
  deriving DecidableEq, Repr

/-- The kind codes of R96. -/
def LogKind.code : LogKind → Nat
  | .checksumMismatch => 0x1
  | .unknownId => 0x2
  | .unknownCommand => 0x3
  | .lengthError => 0x4
  | .rxOverflow => 0x5
  | .noPending => 0x6

/-- The results of a host transaction, 60_exceptions.md R97. -/
inductive Answer where
  | ok
  | okTag (t : Tag)
  | registered (slot : Nat)
  | notRegistered
  | badSlot
  | idOutOfRange
  | alreadyRegistered
  | badCommand
  | queueFull
  | encodeOverflow
  | faulted
  deriving DecidableEq, Repr

/-- The result codes of R97. -/
def Answer.code : Answer → Byte
  | .ok => 0x00
  | .okTag _ => 0x01
  | .registered _ => 0x02
  | .notRegistered => 0x03
  | .badSlot => 0x10
  | .idOutOfRange => 0x11
  | .alreadyRegistered => 0x12
  | .badCommand => 0x13
  | .queueFull => 0x14
  | .encodeOverflow => 0x1F
  | .faulted => 0x20

/-- How a pending request ends, 30_encoding.md R54. -/
inductive Resolution where
  | response (payload : List Byte)
  | timeout
  deriving DecidableEq, Repr

/-- One output event, 30_encoding.md R54. -/
inductive Output where
  | tx (bytes : List Byte)
  | arm (t : Tag) (ms : Nat)
  | clear (t : Tag)
  | complete (slot : Nat) (t : Tag) (r : Resolution)
  | log (kind : LogKind) (a b : Byte)
  | result (r : Answer)
  deriving DecidableEq, Repr

/-- Why a step stops with a fault. -/
inductive Fault where
  /-- Raised by SEND when every tag is pending although the slot's queue has room. R9 and INV5 exclude it
  (43_correlator.md R80: "a free tag always exists"), so no run from reset reaches it. Safe; log entry 16. -/
  | noFreeTag
  deriving DecidableEq, Repr

/-- Why a step is refused. -/
inductive Refusal where
  /-- Raised by exec for an instruction that has no meaning yet. Safe. -/
  | notModelled (mnemonic : String)
  /-- Raised by step for a packet of the inbox that is none of the events of 30_encoding.md R51, which the
  block cannot be given. Safe; log entry 4. -/
  | notAnEvent
  deriving DecidableEq, Repr

/-- The state `S` of 10_state.md, the parameters of 00_scope.md R8 (no rule writes them), and three fields of the
model's own: the events still to be taken, the outputs emitted so far, and a counter for free values. -/
structure State where
  /-- the parameters, 00_scope.md R8 (log entry 8) -/
  cfg : Config
  /-- R18 -/
  fstate : FState
  /-- R19: `RX_CAPACITY` bytes -/
  rxbuf : List Byte
  /-- R20: the bytes of the current frame received so far, at most 259 in any reachable state -/
  idx : Nat
  /-- R21: the body bytes still to come, at most 255 in any reachable state -/
  remaining : Nat
  /-- R22: `none` is NONE, `some s` is SLOT(s) -/
  regtable : Vector (Option Nat) 256
  /-- R23: one FIFO per endpoint slot, oldest tag first -/
  queue : List (List Tag)
  /-- R24 -/
  nextTag : Tag
  /-- R25: `none` is NONE -/
  fault : Option Cause
  /-- MODEL'S OWN (log entry 2): the event packets still to be taken, oldest first -/
  inbox : List (List Byte)
  /-- MODEL'S OWN (log entry 14): every output emitted so far, in order -/
  trace : List Output
  /-- MODEL'S OWN (log entry 13): how many unspecified values have been drawn -/
  freeCount : Nat
  deriving DecidableEq, Repr

/-- The state of R28 for a build with the parameters `c`. The receive buffer, which R28 leaves unspecified, holds
zeros: DESIGN CHOICE, unsafe, log entry 12. -/
def State.resetWith (c : Config) : State where
  cfg := c
  fstate := .seeking
  rxbuf := List.replicate c.rxCapacity 0
  idx := 0
  remaining := 0
  regtable := Vector.replicate 256 none
  queue := List.replicate c.numEndpoints []
  nextTag := 0
  fault := none
  inbox := []
  trace := []
  freeCount := 0

/-- The machine right after reset, with the default parameters of 00_scope.md R8. -/
def State.reset : State := State.resetWith {}

end Sys2Proof.Machine
end

