-- ==== Sys2Proof/Machine/Operands.lean ====
section
/-! DEFINITION. The operands of the events and of received frames: their ranges (30_encoding.md R53) and the
payload a response delivers (42_demux.md R72). -/

namespace Sys2Proof.Machine

/-- 20_memory.md R32: the slot is outside `0 .. NUM_ENDPOINTS-1`. -/
def slotOutOfRange (s : State) (slot : Nat) : Bool := decide (s.cfg.numEndpoints ≤ slot)

/-- 42_demux.md R74: the id may not be registered. -/
def idOutOfRange (id : Byte) : Bool := decide (maxId < id)

/-- 43_correlator.md R79: `Send` transmits READ and WRITE only. -/
def isSendable (cmd : Byte) : Bool := cmd == cmdRead || cmd == cmdWrite

/-- 43_correlator.md R79: more parameters than `MAX_PARAMS`. -/
def tooManyParams (s : State) (params : List Byte) : Bool := decide (s.cfg.maxParams < params.length)

/-- R72: the payload `f[PAYLOAD_START .. n-1)` of a frame whose bytes `f[5 .. n-1)` are `data`. -/
def payloadOf (s : State) (data : List Byte) : List Byte := data.drop (s.cfg.payloadStart.index - 5)

/-- 60_exceptions.md R96: the slot number as the byte `a` of a `NoPending` log; for a number that is no byte, a
free value (log entry 15). -/
def slotByte (slot : Nat) : Byte := if slot < 256 then BitVec.ofNat 8 slot else Config.wideSlotByte slot

end Sys2Proof.Machine
end

