-- ==== Sys2Proof/Machine/Flags.lean ====
section
/-! DEFINITION. The flag-like state: the sticky fault (10_state.md R25), the lookback of SEEKING (R20), and the
verdict on a completed frame (41_framer.md R67). The block has no condition codes. -/

namespace Sys2Proof.Machine

/-- `S.fault != NONE`. -/
def State.faulted (s : State) : Bool := s.fault.isSome

/-- Byte `i` of the receive buffer. Every rule reads only bytes below `idx` that the buffer holds (R19);
outside the buffer it is 0 (log entry 17, no reachable state). -/
def State.byteAt (s : State) (i : Nat) : Byte := s.rxbuf.getD i 0

/-- 41_framer.md R63: the previous byte received in SEEKING was `FF`. -/
def State.lookbackSet (s : State) : Bool := s.idx == 1

/-- The outcomes of the completion tests of R67. -/
inductive Verdict where
  | rxOverflow
  | lengthError
  | checksumMismatch
  | accepted
  deriving DecidableEq, Repr

/-- R67: the tests on the frame of `idx` bytes in the buffer, capacity first, then length, then checksum. -/
def State.verdict (s : State) : Verdict :=
  if s.cfg.rxCapacity < s.idx then .rxOverflow
  else if s.byteAt 3 < 2 then .lengthError
  else if checksum (slice s.rxbuf 2 (s.idx - 1)) ≠ s.byteAt (s.idx - 1) then .checksumMismatch
  else .accepted

end Sys2Proof.Machine
end

