-- ==== Sys2Proof/Machine/Ops.lean ====
section
/-! DEFINITION. The named operations over the state that the meanings share: outputs, the fault guards and the
raising of the sticky fault, the registration table, the queues and the free-tag search, the receive buffer,
delivery of a response, the return to the reset state, and the taking of the next event packet. -/

namespace Sys2Proof.Machine

/-- What one step answers. -/
abbrev StepResult := Host.Outcome State Fault Refusal

/-! ### Outputs, 00_scope.md R12 and 30_encoding.md R54 -/

/-- `emit`: one output behind those already emitted. -/
def State.emit (s : State) (o : Output) : State := { s with trace := s.trace ++ [o] }

/-- The outputs that `t` has emitted beyond those of `s`. -/
def newOutputs (s t : State) : List Output := t.trace.drop s.trace.length

/-- `log(kind, a, b)`. -/
def State.log (s : State) (kind : LogKind) (a b : Byte) : State := s.emit (.log kind a b)

/-- `return r`: the transaction ends with `Result(r)`. -/
def answer (r : Answer) (s : State) : StepResult := .next (s.emit (.result r))

/-! ### The sticky fault, 60_exceptions.md R98 and R99 -/

/-- Taking the block's one exception: `S.fault <- FAULT(cause)`. The event Reset returns from it (R101). -/
def State.raise (s : State) (c : Cause) : State := { s with fault := some c }

/-- R99 for received bytes and expiries: no effect and no output while faulted. -/
def whileRunning (s t : State) : StepResult := if s.faulted then .next s else .next t

/-- R99 for host transactions: `Result(FAULTED)` and no other effect while faulted. -/
def transaction (s : State) (o : StepResult) : StepResult := if s.faulted then answer .faulted s else o

/-! ### The registration table, 10_state.md R22 -/

/-- `S.regtable[id]`. -/
def State.lookup (s : State) (id : Byte) : Option Nat := s.regtable[id.toNat]

/-- `S.regtable[id] <- e`. -/
def State.setEntry (s : State) (id : Byte) (e : Option Nat) : State :=
  { s with regtable := s.regtable.set id.toNat e }

/-! ### The queues, 10_state.md R23, and the tags, R24 -/

/-- `S.queue[slot]`; for a slot that does not exist, no entries (log entry 17). -/
def State.queueOf (s : State) (slot : Nat) : List Tag := s.queue.getD slot []

/-- `S.queue[slot] <- q`. -/
def State.setQueue (s : State) (slot : Nat) (q : List Tag) : State := { s with queue := s.queue.set slot q }

/-- The tags in all queues taken together, in slot order. -/
def State.pending (s : State) : List Tag := s.queue.flatten

/-- The first of the `k` tags `t, t + 1, ...` (modulo `2^TAG_WIDTH`) that is not in use. -/
def firstFree (used : List Tag) : Nat → Tag → Option Tag
  | 0, _ => none
  | k + 1, t => if t ∈ used then firstFree used k (t + 1) else some t

/-- 43_correlator.md R80: `free_tag()`, over the whole cycle from `S.next_tag`. -/
def State.freeTag (s : State) : Option Tag := firstFree s.pending tagCount s.nextTag

/-- `S.next_tag <- (t + 1) mod 2^TAG_WIDTH`. -/
def State.advanceTag (s : State) (t : Tag) : State := { s with nextTag := t + 1 }

/-- The slot whose queue holds `t`: at most one, by INV5. -/
def State.slotOf (s : State) (t : Tag) : Option Nat := s.queue.findIdx? (fun q => q.contains t)

/-! ### The receive buffer, 41_framer.md R62 -/

/-- `store(b)`: a byte that the buffer cannot hold is counted only. -/
def State.store (s : State) (b : Byte) : State :=
  { s with
    rxbuf := if s.idx < s.cfg.rxCapacity then s.rxbuf.set s.idx b else s.rxbuf
    idx := s.idx + 1 }

/-- `S.rxbuf[i] <- b; S.idx <- i + 1; S.fstate <- st`: how SEEKING keeps a byte of the preamble. -/
def State.keepPreamble (s : State) (i : Nat) (b : Byte) (st : FState) : State :=
  { s with rxbuf := s.rxbuf.set i b, idx := i + 1, fstate := st }

/-- R67: back to SEEKING with an empty lookback. -/
def State.toSeeking (s : State) : State := { s with fstate := .seeking, idx := 0, remaining := 0 }

/-! ### Delivery, 43_correlator.md R81 -/

/-- `deliver(slot, payload)` for a frame that carries `id`. -/
def State.deliver (s : State) (slot : Nat) (payload : List Byte) (id : Byte) : State :=
  match s.queueOf slot with
  | [] => s.log .noPending (slotByte slot) id
  | t :: rest => ((s.setQueue slot rest).emit (.clear t)).emit (.complete slot t (.response payload))

/-! ### Reset, 70_reset_and_hazards.md R110 -/

/-- The unspecified receive buffer after reset: free values (log entry 13). -/
def State.freeBuffer (s : State) : List Byte :=
  (List.range s.cfg.rxCapacity).map (Config.freeRxByte s.freeCount)

/-- R110: every timer is cleared, in slot order and queue order, and every field takes its reset value. The
parameters, the events still to come and the outputs already emitted are not the block's to reset. -/
def State.resetBlock (s : State) : State :=
  { State.resetWith s.cfg with
    rxbuf := s.freeBuffer
    inbox := s.inbox
    trace := s.trace ++ s.pending.map .clear
    freeCount := s.freeCount + 1 }

/-! ### The next event -/

/-- The oldest packet of the inbox, and the state without it. -/
def State.takePacket (s : State) : Option (List Byte × State) :=
  match s.inbox with
  | [] => none
  | p :: rest => some (p, { s with inbox := rest })

end Sys2Proof.Machine
end

