-- ==== Sys2Proof/Machine/Correlator.lean ====
section
/-! DEFINITION. The correlator: the transaction SEND and the event EXPIRE (43_correlator.md R79, R80, R82). -/

namespace Sys2Proof.Machine

/-- R79: the accepted request with tag `t`: enqueue, advance the tag counter, `Arm`, `Tx`, `Result(OK_TAG(t))`. -/
def State.issue (s : State) (t : Tag) (slot : Nat) (id cmd addr : Byte) (params : List Byte) : StepResult :=
  let u := (s.setQueue slot (s.queueOf slot ++ [t])).advanceTag t
  answer (.okTag t) ((u.emit (.arm t s.cfg.timeoutMs)).emit (.tx (wireFrame id cmd (addr :: params))))

/-- SEND (R79). -/
def execSend (slot : Nat) (id cmd addr : Byte) (params : List Byte) (s : State) : StepResult :=
  transaction s <|
    if slotOutOfRange s slot then answer .badSlot s
    else if !isSendable cmd then answer .badCommand s
    else if s.lookup id ≠ some slot then answer .notRegistered s
    else if tooManyParams s params then answer .encodeOverflow (s.raise .encodeOverflow)
    else if s.cfg.queueDepth ≤ (s.queueOf slot).length then answer .queueFull s
    else
      match s.freeTag with
      | none => .fault .noFreeTag
      | some t => s.issue t slot id cmd addr params

/-- R82: the request `t` of a slot ends by timeout. -/
def State.expireTag (s : State) (t : Tag) : State :=
  match s.slotOf t with
  | none => s
  | some slot => (s.setQueue slot ((s.queueOf slot).erase t)).emit (.complete slot t .timeout)

/-- EXPIRE (R82). -/
def execExpire (t : Tag) (s : State) : StepResult :=
  whileRunning s (s.expireTag t)

end Sys2Proof.Machine
end

