-- ==== Sys2Proof/Machine/Demux.lean ====
section
/-! DEFINITION. The wire-frame family: what a received, validated frame of each command does (42_demux.md R71 to
R73), and the classification that the framer runs on a completed frame. -/

namespace Sys2Proof.Machine

/-- R73: `dispatch`, for the frame with this id, command and data. -/
def State.dispatch (s : State) (id cmd : Byte) (data : List Byte) : State :=
  match s.lookup id with
  | none => s.log .unknownId id cmd
  | some slot => s.deliver slot (payloadOf s data) id

/-- R71: the echo of a READ or WRITE is dropped with no output. -/
def State.dropEcho (s : State) : State := s

/-- R71: a command that no row names is logged and dropped. -/
def State.rejectCommand (s : State) (id cmd : Byte) : State := s.log .unknownCommand id cmd

/-- R71: `classify(f)`, by the command byte `f[4]`. -/
def State.classify (s : State) (f : List Byte) : State :=
  let id := f.getD 2 0
  let cmd := f.getD 4 0
  if cmd = cmdRead ∨ cmd = cmdWrite then s.dropEcho
  else if cmd = cmdResponse ∨ cmd = cmdResponseAlt then s.dispatch id cmd (slice f 5 (f.length - 1))
  else s.rejectCommand id cmd

/-- RESPONSE, 0x00 (R71, R73). -/
def execResponse (id : Byte) (data : List Byte) (s : State) : StepResult :=
  whileRunning s (s.dispatch id cmdResponse data)

/-- RESPONSE_ALT, 0x01: exactly as 0x00 (R49, R71). -/
def execResponseAlt (id : Byte) (data : List Byte) (s : State) : StepResult :=
  whileRunning s (s.dispatch id cmdResponseAlt data)

/-- READ, 0x02, received: an echo (R71). Its transmission is `execSend`. -/
def execRead (_id : Byte) (_data : List Byte) (s : State) : StepResult :=
  whileRunning s s.dropEcho

/-- WRITE, 0x03, received: an echo (R71). Its transmission is `execSend`. -/
def execWrite (_id : Byte) (_data : List Byte) (s : State) : StepResult :=
  whileRunning s s.dropEcho

/-- UNKNOWN_COMMAND, 0x04 .. 0x07 (R50, R71). -/
def execUnknown04 (low : BitVec 2) (id : Byte) (_data : List Byte) (s : State) : StepResult :=
  whileRunning s (s.rejectCommand id (cmdUnknown04 low))

/-- UNKNOWN_COMMAND, 0x08 .. 0x0F (R50, R71). -/
def execUnknown08 (low : BitVec 3) (id : Byte) (_data : List Byte) (s : State) : StepResult :=
  whileRunning s (s.rejectCommand id (cmdUnknown08 low))

/-- UNKNOWN_COMMAND, 0x10 .. 0x1F (R50, R71). -/
def execUnknown10 (low : BitVec 4) (id : Byte) (_data : List Byte) (s : State) : StepResult :=
  whileRunning s (s.rejectCommand id (cmdUnknown10 low))

/-- UNKNOWN_COMMAND, 0x20 .. 0x3F (R50, R71). -/
def execUnknown20 (low : BitVec 5) (id : Byte) (_data : List Byte) (s : State) : StepResult :=
  whileRunning s (s.rejectCommand id (cmdUnknown20 low))

/-- UNKNOWN_COMMAND, 0x40 .. 0x7F (R50, R71). -/
def execUnknown40 (low : BitVec 6) (id : Byte) (_data : List Byte) (s : State) : StepResult :=
  whileRunning s (s.rejectCommand id (cmdUnknown40 low))

/-- UNKNOWN_COMMAND, 0x80 .. 0xFF (R50, R71). -/
def execUnknown80 (low : BitVec 7) (id : Byte) (_data : List Byte) (s : State) : StepResult :=
  whileRunning s (s.rejectCommand id (cmdUnknown80 low))

end Sys2Proof.Machine
end

