-- ==== Sys2Proof/Machine/Framer.lean ====
section
/-! DEFINITION. The framer: the event RX and the rules of 41_framer.md it runs, R61 and R63 to R67. -/

namespace Sys2Proof.Machine

/-- R63: SEEKING under LOOKBACK. -/
def State.seekLookback (s : State) (b : Byte) : State :=
  if b = preambleByte ∧ s.lookbackSet then s.keepPreamble 1 preambleByte .header
  else if b = preambleByte then s.keepPreamble 0 preambleByte .seeking
  else { s with idx := 0 }

/-- R64: SEEKING under PAIR_RESET. -/
def State.seekPair (s : State) (b : Byte) : State :=
  if s.idx = 0 then s.keepPreamble 0 b .seeking
  else if s.byteAt 0 = preambleByte ∧ b = preambleByte then s.keepPreamble 1 preambleByte .header
  else { s with idx := 0 }

/-- R67: `complete()`. -/
def State.complete (s : State) : State :=
  let id := s.byteAt 2
  let len := s.byteAt 3
  let judged :=
    match s.verdict with
    | .rxOverflow => s.log .rxOverflow id len
    | .lengthError => s.log .lengthError id len
    | .checksumMismatch => s.log .checksumMismatch id len
    | .accepted => s.classify (slice s.rxbuf 0 s.idx)
  judged.toSeeking

/-- R65: HEADER, the id and then the length. -/
def State.header (s : State) (b : Byte) : State :=
  let u := s.store b
  if u.idx = 4 then
    if b = 0 then u.complete
    else { u with remaining := b.toNat, fstate := .body }
  else u

/-- R66: BODY, exactly `L` bytes. -/
def State.body (s : State) (b : Byte) : State :=
  let u := s.store b
  let v := { u with remaining := u.remaining - 1 }
  if v.remaining = 0 then v.complete else v

/-- R61: the framer's transition on one byte. -/
def State.receive (s : State) (b : Byte) : State :=
  match s.fstate with
  | .seeking =>
    match s.cfg.syncPolicy with
    | .lookback => s.seekLookback b
    | .pairReset => s.seekPair b
  | .header => s.header b
  | .body => s.body b

/-- RX (R61): one received byte. -/
def execRx (b : Byte) (s : State) : StepResult :=
  whileRunning s (s.receive b)

end Sys2Proof.Machine
end

