-- ==== Sys2Proof/Machine/Registration.lean ====
section
/-! DEFINITION. The host transactions on the registration table and the raw transmit path: REGISTER, UNREGISTER,
QUERY and RAWSEND (42_demux.md R74 to R77). -/

namespace Sys2Proof.Machine

/-- REGISTER (R74). -/
def execRegister (id : Byte) (slot : Nat) (s : State) : StepResult :=
  transaction s <|
    if slotOutOfRange s slot then answer .badSlot s
    else if idOutOfRange id then answer .idOutOfRange s
    else if (s.lookup id).isSome then answer .alreadyRegistered s
    else answer .ok (s.setEntry id (some slot))

/-- UNREGISTER (R75). -/
def execUnregister (id : Byte) (s : State) : StepResult :=
  transaction s (answer .ok (s.setEntry id none))

/-- QUERY (R76). -/
def execQuery (id : Byte) (s : State) : StepResult :=
  transaction s <|
    match s.lookup id with
    | none => answer .notRegistered s
    | some slot => answer (.registered slot) s

/-- RAWSEND (R77). -/
def execRawsend (bytes : List Byte) (s : State) : StepResult :=
  transaction s (answer .ok (s.emit (.tx bytes)))

end Sys2Proof.Machine
end

