-- ==== Sys2Proof/Machine/Reset.lean ====
section
/-! DEFINITION. The event RESET (70_reset_and_hazards.md R110), which also returns from the sticky fault. -/

namespace Sys2Proof.Machine

/-- RESET (R110): accepted whether or not the block is faulted; no `Result`, no `Complete`. -/
def execReset (s : State) : StepResult := .next s.resetBlock

end Sys2Proof.Machine
end

