-- ==== Sys2Proof/Machine/Dispatch.lean ====
section
/-! DEFINITION. One arm per instruction, each a direct call of its meaning. -/

namespace Sys2Proof.Machine

def exec (i : Instr) (s : State) : Host.Outcome State Fault Refusal :=
  match i with
  | .response id data => Sys2Proof.Machine.execResponse id data s
  | .responseAlt id data => Sys2Proof.Machine.execResponseAlt id data s
  | .read id data => Sys2Proof.Machine.execRead id data s
  | .write id data => Sys2Proof.Machine.execWrite id data s
  | .unknown04 low id data => Sys2Proof.Machine.execUnknown04 low id data s
  | .unknown08 low id data => Sys2Proof.Machine.execUnknown08 low id data s
  | .unknown10 low id data => Sys2Proof.Machine.execUnknown10 low id data s
  | .unknown20 low id data => Sys2Proof.Machine.execUnknown20 low id data s
  | .unknown40 low id data => Sys2Proof.Machine.execUnknown40 low id data s
  | .unknown80 low id data => Sys2Proof.Machine.execUnknown80 low id data s
  | .rx b => Sys2Proof.Machine.execRx b s
  | .expire t => Sys2Proof.Machine.execExpire t s
  | .register id slot => Sys2Proof.Machine.execRegister id slot s
  | .unregister id => Sys2Proof.Machine.execUnregister id s
  | .query id => Sys2Proof.Machine.execQuery id s
  | .send slot id cmd addr params => Sys2Proof.Machine.execSend slot id cmd addr params s
  | .rawsend bytes => Sys2Proof.Machine.execRawsend bytes s
  | .reset => Sys2Proof.Machine.execReset s

end Sys2Proof.Machine
end

