-- ==== Sys2Proof/Machine/Fetch.lean ====
section
/-! DEFINITION. Where an instruction is taken from: an event from the packet at the head of the inbox, a wire
frame from the receive buffer, whose last byte the framer still waits for. -/

namespace Sys2Proof.Machine

/-- The instruction is one of the wire-frame rows, which the framer runs. -/
def isFrame : Instr → Bool
  | .response _ _ => true
  | .responseAlt _ _ => true
  | .read _ _ => true
  | .write _ _ => true
  | .unknown04 _ _ _ => true
  | .unknown08 _ _ _ => true
  | .unknown10 _ _ _ => true
  | .unknown20 _ _ _ => true
  | .unknown40 _ _ _ => true
  | .unknown80 _ _ _ => true
  | .rx _ => false
  | .expire _ => false
  | .register _ _ => false
  | .unregister _ => false
  | .query _ => false
  | .send _ _ _ _ _ => false
  | .rawsend _ => false
  | .reset => false

/-- The packet that runs next. -/
def State.pushPacket (s : State) (p : List Byte) : State := { s with inbox := p :: s.inbox }

/-- All bytes of the frame `f` but its last received, and the last one as the next event. -/
def State.placeFrame (s : State) (f : List Byte) : State :=
  let stored := f.take (f.length - 1)
  { s with
    fstate := .body
    rxbuf := stored ++ s.rxbuf.drop stored.length
    idx := stored.length
    remaining := 1
    inbox := encode (.rx (f.getD (f.length - 1) 0)) :: s.inbox }

/-- `s` with the instruction `i` where the next step takes it from. -/
def State.placeInstr (s : State) (i : Instr) : State :=
  if isFrame i then s.placeFrame (encode i) else s.pushPacket (encode i)

end Sys2Proof.Machine
end

