-- ==== Sys2Proof/Machine/Step.lean ====
section
/-! DEFINITION. One step: the oldest event packet is taken, decoded and run (00_scope.md R7, 20_memory.md R39).
With no event to take the block waits (70_reset_and_hazards.md R111; log entry 1). -/

namespace Sys2Proof.Machine

def step (s : State) : Host.Outcome State Fault Refusal :=
  match s.takePacket with
  | none => .next s
  | some (p, u) =>
    match decodeEvent p with
    | .ok i => exec i u
    | .error _ => .refused .notAnEvent

/-- `s` with the instruction of a table word placed so that the next step runs it (log entries 2 and 6); a word
that is no instruction is put into the inbox as it stands. -/
def State.withFetchWord (s : State) (nbits w : Nat) : State :=
  match decodeTableWord nbits w with
  | some i => s.placeInstr i
  | none => s.pushPacket (tableBytes ((nbits + 7) / 8) w)

end Sys2Proof.Machine
end

