-- ==== Sys2Proof/Machine/Float64.lean ====
section
/-! DEFINITION. The f64 arithmetic of 45_host_sequences.md R86: a rational and the f64 number nearest to it, ties to
the even one. The exponent is not bounded: an overflow or an underflow would not change a raw position (DEDUCED, log
entry 18). -/

namespace Sys2Proof.Machine

/-- `2 ^ e`. -/
def pow2 : Int → Rat
  | .ofNat n => ((2 ^ n : Nat) : Rat)
  | .negSucc n => 1 / ((2 ^ (n + 1) : Nat) : Rat)

/-- The exponent of the last bit of the 53-bit significand of `q`: `2^52 <= |q| / 2^e < 2^53`, for `q` not 0. -/
def lastBit (q : Rat) : Int :=
  let e := (q.num.natAbs.log2 : Int) - q.den.log2 - 52
  if q.num.natAbs < 2 ^ 52 * (pow2 e * q.den) then e - 1 else e

/-- The nearest integer, the even one of two. -/
def roundHalfEven (q : Rat) : Int :=
  let n := q.floor
  let d := q - n
  if d < 1 / 2 then n
  else if 1 / 2 < d then n + 1
  else if n % 2 = 0 then n
  else n + 1

/-- The f64 number nearest to `q`. -/
def f64 (q : Rat) : Rat :=
  if q = 0 then 0
  else roundHalfEven (q / pow2 (lastBit q)) * pow2 (lastBit q)

end Sys2Proof.Machine
end

