-- ==== Sys2Proof/Machine/HostOps.lean ====
section
/-! DEFINITION. How the host drives the block (45_host_sequences.md): an operation as a sequence of transactions and
awaits, how it ends (R94), and how it runs beside the block. The host is no part of the block (00_scope.md R6). -/

namespace Sys2Proof.Machine

/-- The typed failures of R94. -/
inductive HostFailure where
  | timeout
  | shortResponse
  | idAlreadyRegistered
  | encodeOverflow
  deriving DecidableEq, Repr

/-- How an operation ends. -/
inductive Ending (α : Type) where
  /-- the value it returns -/
  | result (v : α)
  /-- R94: the failure it reports to the caller -/
  | failed (f : HostFailure)
  /-- 93_implementation_defined.md U14: an offset outside `[-2000, 2000]` is refused, and nothing is sent (log
  entry 31) -/
  | offsetRefused
  /-- The operation met the failure `f`, and what the host does then is not in the source (R93; log entry 29). -/
  | unstated (f : HostFailure)
  /-- A transaction answered `r`, and what the host does then is not in the source (log entry 29). -/
  | unstatedAnswer (r : Answer)
  deriving DecidableEq, Repr

/-- An operation that has not ended issues a transaction and goes on with its result, or awaits the completion of
the request with tag `t` and goes on with how it was resolved. -/
inductive HostOp (α : Type) where
  | ended (e : Ending α)
  | transact (i : Instr) (next : Answer → HostOp α)
  | await (t : Tag) (next : Resolution → HostOp α)

/-- The operation and the block it drives. -/
structure Session (α : Type) where
  block : State
  op : HostOp α

/-- What a run of a session answers. -/
abbrev SessionResult (α : Type) := Host.Outcome (Session α) Fault Refusal

/-- The `Result` of a transaction, the last output of its step (30_encoding.md R54). -/
def answerOf (outs : List Output) : Option Answer :=
  match outs.getLast? with
  | some (.result r) => some r
  | _ => none

/-- The host runs until it awaits or ends. No event comes between two transactions with no await between them: the
source's single context suspends at an await only (70_reset_and_hazards.md R115; DEDUCED, log entry 28). A
transaction without a `Result` does not exist (R54); the host would stay where it is. -/
def HostOp.resume {α : Type} : HostOp α → State → SessionResult α
  | .ended e, s => .next ⟨s, .ended e⟩
  | .await t next, s => .next ⟨s, .await t next⟩
  | .transact i next, s =>
    match exec i s with
    | .next u =>
      match answerOf (newOutputs s u) with
      | some r => (next r).resume u
      | none => .next ⟨u, .transact i next⟩
    | .fault f => .fault f
    | .refused r => .refused r

/-- The host sees an output: the `Complete` of the tag it awaits ends the await; anything else is not for it. -/
def HostOp.observe {α : Type} (op : HostOp α) (o : Output) : HostOp α :=
  match op, o with
  | .await t next, .complete _ t' r => if t' = t then next r else .await t next
  | op, _ => op

/-- An event of another source, or of another endpoint, while the operation runs. -/
def Session.event {α : Type} (c : Session α) (i : Instr) : SessionResult α :=
  match exec i c.block with
  | .next u => .next ⟨u, (newOutputs c.block u).foldl HostOp.observe c.op⟩
  | .fault f => .fault f
  | .refused r => .refused r

/-- One move of a session: an event reaches the block, or the host runs. -/
inductive Move where
  | event (i : Instr)
  | host
  deriving DecidableEq, Repr

def Session.move {α : Type} (c : Session α) : Move → SessionResult α
  | .event i => c.event i
  | .host => c.op.resume c.block

/-- A session under a schedule; every schedule is admitted (60_exceptions.md R103). -/
def Session.run {α : Type} : List Move → Session α → SessionResult α
  | [], c => .next c
  | m :: ms, c =>
    match c.move m with
    | .next d => Session.run ms d
    | o => o

/-! ### Requests -/

/-- A `Send`: an accepted one goes on with its tag, too many parameters are the fatal `EncodeOverflow` (R94). -/
def send {α : Type} (i : Instr) (next : Tag → HostOp α) : HostOp α :=
  .transact i fun
    | .okTag t => next t
    | .encodeOverflow => .ended (.failed .encodeOverflow)
    | r => .ended (.unstatedAnswer r)

/-- The await of a tag: a `Response` goes on with its payload, a `Timeout` ends the operation. -/
def awaitTag {α : Type} (t : Tag) (onTimeout : Ending α) (next : List Byte → HostOp α) : HostOp α :=
  .await t fun
    | .response p => next p
    | .timeout => .ended onTimeout

/-- A `Send` and the await of its tag. -/
def request {α : Type} (i : Instr) (onTimeout : Ending α) (next : List Byte → HostOp α) : HostOp α :=
  send i fun t => awaitTag t onTimeout next

/-- A `Register` (R88, R94): refused for a taken id, it is `onTaken`. -/
def registerId {α : Type} (id : Byte) (slot : Nat) (onTaken : Ending α) (next : HostOp α) : HostOp α :=
  .transact (.register id slot) fun
    | .ok => next
    | .alreadyRegistered => .ended onTaken
    | r => .ended (.unstatedAnswer r)

/-- A `Query` that must find the id free (R93, R94). -/
def checkFree {α : Type} (id : Byte) (next : HostOp α) : HostOp α :=
  .transact (.query id) fun
    | .notRegistered => next
    | .registered _ => .ended (.failed .idAlreadyRegistered)
    | r => .ended (.unstatedAnswer r)

/-- An `Unregister`. -/
def unregisterId {α : Type} (id : Byte) (next : HostOp α) : HostOp α :=
  .transact (.unregister id) fun
    | .ok => next
    | r => .ended (.unstatedAnswer r)

end Sys2Proof.Machine
end

