-- ==== Sys2Proof/Machine/Endpoint.lean ====
section
/-! DEFINITION. The host-side sequences of 45_host_sequences.md: the parameter encodings (R85 to R87) and the
endpoint operations (R88 to R93). They are no part of the block (00_scope.md R6) and nothing in the block checks
them; they fix the parameter bytes the block carries and the order in which the host issues its transactions. -/

namespace Sys2Proof.Machine

/-- The register codes of 20_memory.md R31, opaque to the block. -/
inductive RegAddr where
  | id
  | offset
  | torqueEnable
  | goalAcc
  | goalPosition
  | goalTime
  | lock
  | presentPosition
  deriving DecidableEq, Repr

/-- The code of a register (R31, decimal). -/
def RegAddr.code : RegAddr → Byte
  | .id => 5
  | .offset => 31
  | .torqueEnable => 40
  | .goalAcc => 41
  | .goalPosition => 42
  | .goalTime => 44
  | .lock => 48
  | .presentPosition => 56

/-! ### Parameter encodings -/

/-- R85: a two-byte field, high byte first. -/
def be16 (v : BitVec 16) : List Byte := [hiByte v, loByte v]

/-- R85: `hi * 256 + lo`. -/
def unbe16 (hi lo : Byte) : Nat := hi.toNat * 256 + lo.toNat

/-- R86: `clamp(x, lo, hi)`. -/
def clamp (x lo hi : Rat) : Rat := if x < lo then lo else if hi < x then hi else x

/-- R86: `floor(clamp(value * 1024 / 200, 0, 1023))`, each operation in f64. -/
def rawOfValue (value : Rat) : Int := (clamp (f64 (f64 (value * 1024) / 200)) 0 1023).floor

/-- R86: `value = angle_degrees + calibration_offset`. The unit of the offset in this sum is not in the source, so
`offset` is the number that is added, whatever the offset register holds. -/
def rawOfAngle (angle offset : Rat) : Int := rawOfValue (f64 (f64 angle + f64 offset))

/-- R86, the reverse; exact in f64 for every 16-bit raw value. -/
def degreesOfRaw (raw : Nat) : Rat := (raw : Rat) * 200 / 1024

/-- R87: magnitude in bits 14..0, sign in bit 15; a value outside `[-2000, 2000]` is refused, after
93_implementation_defined.md U14 (DESIGN CHOICE, log entry 31). -/
def encOffset (v : Int) : Option (BitVec 16) :=
  if v.natAbs ≤ 2000 then some ((if v < 0 then 0x8000#16 else 0#16) + BitVec.ofNat 16 v.natAbs) else none

/-- R87. -/
def decOffset (w : BitVec 16) : Int :=
  let m : Int := (w.extractLsb' 0 15).toNat
  if w.getLsbD 15 then -m else m

/-! ### Operations -/

/-- A WRITE request of an endpoint. -/
def writeReq (slot : Nat) (id : Byte) (r : RegAddr) (params : List Byte) : Instr :=
  .send slot id cmdWrite r.code params

/-- A READ request; its parameter bytes `params` are the host's (decision D25). -/
def readReq (slot : Nat) (id : Byte) (r : RegAddr) (params : List Byte) : Instr :=
  .send slot id cmdRead r.code params

/-- A write that is awaited: the payload of the response is ignored, a `Timeout` is the operation's failure (R89,
R94). -/
def write (slot : Nat) (id : Byte) (r : RegAddr) (params : List Byte) (next : HostOp Unit) : HostOp Unit :=
  request (writeReq slot id r params) (.failed .timeout) fun _ => next

/-- The operation is done. -/
def succeed : HostOp Unit := .ended (.result ())

/-- R88: constructing an endpoint. -/
def construct (slot : Nat) (id : Byte) : HostOp Unit :=
  registerId id slot (.failed .idAlreadyRegistered) succeed

/-- R89. -/
def setTorque (slot : Nat) (id : Byte) (enabled : Bool) : HostOp Unit :=
  write slot id .torqueEnable [if enabled then 1 else 0] succeed

/-- The raw position of an angle as the field of a frame (R85, R86). -/
def positionBytes (angle offset : Rat) : List Byte := be16 (BitVec.ofInt 16 (rawOfAngle angle offset))

/-- R90: `set_angle`, for the angle and the calibration offset of R86. -/
def setAngle (slot : Nat) (id : Byte) (angle offset : Rat) : HostOp Unit :=
  write slot id .goalPosition (positionBytes angle offset) succeed

/-- R90: the two ways in which GOAL_TIME may travel; the source does not say which. -/
inductive GoalTimeFraming where
  /-- behind the position, in one frame at GOAL_POSITION -/
  | oneFrame
  /-- in a second frame at GOAL_TIME -/
  | secondFrame
  deriving DecidableEq, Repr

/-- R90: `set_angle_in_time`. How `goal_time_ms` is encoded and framed is not in the source: `time`, the bytes that
encode it, and the framing are arguments (log entry 25). -/
def setAngleInTime (slot : Nat) (id : Byte) (angle offset : Rat) (framing : GoalTimeFraming) (time : List Byte) :
    HostOp Unit :=
  match framing with
  | .oneFrame => write slot id .goalPosition (positionBytes angle offset ++ time) succeed
  | .secondFrame => write slot id .goalPosition (positionBytes angle offset) (write slot id .goalTime time succeed)

/-- R91: the angle in a status payload; a payload shorter than two bytes is `ShortResponse`. -/
def decodeStatus : List Byte → Ending Rat
  | hi :: lo :: _ => .result (degreesOfRaw (unbe16 hi lo))
  | _ => .failed .shortResponse

/-- R91: `read_status`. -/
def readStatus (slot : Nat) (id : Byte) (params : List Byte) : HostOp Rat :=
  request (readReq slot id .presentPosition params) (.failed .timeout) fun p => .ended (decodeStatus p)

/-- R91: `request_read_status`, the same `Send` without the await; it gives the tag. -/
def requestReadStatus (slot : Nat) (id : Byte) (params : List Byte) : HostOp Tag :=
  send (readReq slot id .presentPosition params) fun t => .ended (.result t)

/-- R92: the offset in a payload. -/
def decodeOffset : List Byte → Ending Int
  | hi :: lo :: _ => .result (decOffset (operand16 hi lo))
  | _ => .failed .shortResponse

/-- R92: `set_offset_angle`, three writes, each awaited before the next. -/
def setOffset (slot : Nat) (id : Byte) (v : Int) : HostOp Unit :=
  match encOffset v with
  | none => .ended .offsetRefused
  | some w =>
    write slot id .lock [0] <|
    write slot id .offset (be16 w) <|
    write slot id .lock [1] succeed

/-- R92: `read_offset_angle`, without a bracket of LOCK writes. -/
def readOffset (slot : Nat) (id : Byte) (params : List Byte) : HostOp Int :=
  request (readReq slot id .offset params) (.failed .timeout) fun p => .ended (decodeOffset p)

/-- R93: `flash_id`. What it does where step 4 is refused or an await ends in `Timeout` is not in the source (log
entry 29). -/
def flashId (slot : Nat) (old new : Byte) : HostOp Unit :=
  checkFree new <|
  request (writeReq slot old .lock [0]) (.unstated .timeout) fun _ =>
  send (writeReq slot old .id [new]) fun t =>
  registerId new slot (.unstated .idAlreadyRegistered) <|
  awaitTag t (.unstated .timeout) fun _ =>
  request (writeReq slot new .lock [1]) (.unstated .timeout) fun _ =>
  unregisterId old succeed

end Sys2Proof.Machine
end

