-- ==== Sys2Proof/Safety.lean ====
section
/-! DEFINITION. The terms of the claims: the invariants of 10_state.md R27, runs of received bytes, the outputs a
step adds, and the timers that the outputs have left armed. -/

namespace Sys2Proof.Machine

/-! ### The invariants of R27 -/

/-- INV1 to INV3: what the framer state says of `idx`, `remaining` and the buffer. -/
def State.FramerInv (s : State) : Prop :=
  match s.fstate with
  | .seeking => s.idx ≤ 1 ∧ (s.cfg.syncPolicy = .lookback → s.idx = 1 → s.byteAt 0 = preambleByte)
  | .header => (s.idx = 2 ∨ s.idx = 3) ∧ s.byteAt 0 = preambleByte ∧ s.byteAt 1 = preambleByte
  | .body =>
    4 ≤ s.idx ∧ s.idx ≤ 258 ∧ 1 ≤ s.remaining ∧ s.remaining ≤ 255 ∧
      s.idx + s.remaining = 4 + (s.byteAt 3).toNat

/-- INV4, and the range of a slot number (10_state.md R22). -/
def State.TableInv (s : State) : Prop :=
  ∀ id : Byte, (maxId < id → s.lookup id = none) ∧ ∀ slot, s.lookup id = some slot → slot < s.cfg.numEndpoints

/-- INV5: tags pairwise distinct, no queue longer than `QUEUE_DEPTH`. -/
def State.QueueInv (s : State) : Prop :=
  s.pending.Nodup ∧ ∀ q ∈ s.queue, q.length ≤ s.cfg.queueDepth

/-- The sizes of 10_state.md R19 and R23. -/
def State.Sized (s : State) : Prop :=
  s.rxbuf.length = s.cfg.rxCapacity ∧ s.queue.length = s.cfg.numEndpoints

/-- The parameters meet R9, and INV1 to INV5 hold. INV6 speaks of a step, not of a state. -/
structure State.Inv (s : State) : Prop where
  valid : s.cfg.Valid
  sized : s.Sized
  framer : s.FramerInv
  table : s.TableInv
  queues : s.QueueInv

/-! ### Runs of received bytes -/

/-- One RX event per byte, in order (20_memory.md R37). -/
def feed : List Byte → State → StepResult
  | [], s => .next s
  | b :: bs, s =>
    match exec (.rx b) s with
    | .next t => feed bs t
    | o => o

/-- Some two bytes that follow each other are both `FF`. -/
def hasPreamble : List Byte → Bool
  | a :: b :: rest => (a == preambleByte && b == preambleByte) || hasPreamble (b :: rest)
  | _ => false

/-- Some pair at an even offset is `FF FF` (41_framer.md R70, FP3). -/
def hasAlignedPreamble : List Byte → Bool
  | a :: b :: rest => (a == preambleByte && b == preambleByte) || hasAlignedPreamble rest
  | _ => false

/-- The noise of R70, FP4, before a frame: what does not disturb the synchronisation under the policy. -/
def QuietNoise (p : SyncPolicy) (noise : List Byte) : Prop :=
  match p with
  | .lookback => hasPreamble noise = false ∧ noise.getLast? ≠ some preambleByte
  | .pairReset => noise.length % 2 = 0 ∧ hasAlignedPreamble noise = false

/-- SEEKING with an empty lookback. -/
def State.Idle (s : State) : Prop := s.fstate = .seeking ∧ s.idx = 0

/-! ### What a step adds and leaves alone -/

/-- The framer's fields are the same. -/
def SameFramer (s t : State) : Prop :=
  t.fstate = s.fstate ∧ t.rxbuf = s.rxbuf ∧ t.idx = s.idx ∧ t.remaining = s.remaining

/-- The fields of the correlator and of the demultiplexer, the fault and the outputs are the same. -/
def SameBeyondFramer (s t : State) : Prop :=
  t.regtable = s.regtable ∧ t.queue = s.queue ∧ t.nextTag = s.nextTag ∧ t.fault = s.fault ∧ t.trace = s.trace

/-- The transactions that answer with a `Result` (30_encoding.md R54). -/
def isTransaction : Instr → Bool
  | .register _ _ => true
  | .unregister _ => true
  | .query _ => true
  | .send _ _ _ _ _ => true
  | .rawsend _ => true
  | _ => false

/-- The output is a `Result`. -/
def Output.isResult : Output → Bool
  | .result _ => true
  | _ => false

/-- The output is a `Complete`. -/
def Output.isComplete : Output → Bool
  | .complete _ _ _ => true
  | _ => false

/-- A `Result` that reports no effect: a refusal, which sends no byte and changes no state (60_exceptions.md
R101), or `NOT_REGISTERED`, which is also what `Query` reports of a free id. -/
def Answer.isRefusal : Answer → Bool
  | .badSlot => true
  | .idOutOfRange => true
  | .alreadyRegistered => true
  | .notRegistered => true
  | .badCommand => true
  | .queueFull => true
  | .faulted => true
  | _ => false

/-! ### Timers, 43_correlator.md R83 -/

/-- What one output does to the set of armed timers: `Arm` starts one, `Clear` stops one, and a `Timeout`
completion means that the timer has fired. -/
def timerEffect (armed : List Tag) : Output → List Tag
  | .arm t _ => armed ++ [t]
  | .clear t => armed.erase t
  | .complete _ t .timeout => armed.erase t
  | _ => armed

/-- The timers that are armed after a sequence of outputs (R26: one per pending request, named by tag). -/
def armedTimers (outs : List Output) : List Tag := outs.foldl timerEffect []

/-- The armed timers are exactly those of the pending requests. -/
def State.TimersMatch (s : State) : Prop := (armedTimers s.trace).Perm s.pending

/-! ### Host operations, 45_host_sequences.md -/

/-- The block accepts a request of `n` parameter bytes by the endpoint `slot` under `id` (43_correlator.md R79). -/
structure State.Accepts (s : State) (slot : Nat) (id : Byte) (n : Nat) : Prop where
  inv : s.Inv
  running : s.fault = none
  slot_exists : slot < s.cfg.numEndpoints
  registered : s.lookup id = some slot
  fits : n ≤ s.cfg.maxParams
  room : (s.queueOf slot).length < s.cfg.queueDepth

/-- The outputs of an accepted request with tag `t` and frame `f`. -/
def sentOutputs (s : State) (t : Tag) (f : List Byte) : List Output :=
  [.arm t s.cfg.timeoutMs, .tx f, .result (.okTag t)]

/-- Run by the host in the state `s`, the operation emits the outputs `before`, has the block send the frame of the
request, under a tag that is then the newest of the slot, emits the outputs `after`, and awaits that tag, to go on
with `next`. The block is then in the state `u`. -/
def Sends {α : Type} (op : HostOp α) (s : State) (slot : Nat) (id cmd addr : Byte) (params : List Byte)
    (before after : List Output) (u : State) (next : Resolution → HostOp α) : Prop :=
  ∃ t f, s.freeTag = some t ∧ encodeFrame s.cfg.maxParams id cmd addr params = .ok f ∧
    op.resume s = .next ⟨u, .await t next⟩ ∧ newOutputs s u = before ++ sentOutputs s t f ++ after ∧
    u.queueOf slot = s.queueOf slot ++ [t]

end Sys2Proof.Machine
end

