-- ==== Sys2Proof/Certificates/Slice0/Obligations.lean ====
section
/-! DEFINITION. The statements for the provers. Each docstring names the rules of spec/ it formalises.

Reading them: `exec i s = .next t` says that the event (or the received frame) `i` completes; a `t` written as
`{ s with … }` says that every other field is unchanged, the frame of the instruction. `trace` is the model's own
list of the outputs emitted so far (log entry 14), so `trace := s.trace ++ os` says that the step emits exactly
`os`, in that order. `inbox` and `freeCount` are the model's own too (log entries 2 and 13). The parameters of
00_scope.md R8 are the field `cfg`, and every statement holds for every value of it (log entry 8). -/

open Sys2Proof Sys2Proof.Machine

/-! ### Codec -/

/-- 40_codec.md R56: the checksum of a list of bytes is `0xFF` minus the sum modulo 256, in the three forms the
rule calls equal, its corner cases and its worked example; and the checksum of a frame is taken over the bytes
from the id to the last before the checksum. -/
def Obligations.ChecksumComplementsTheSum : Prop :=
  (∀ xs : List Byte, (checksum xs).toNat = 255 - (xs.map BitVec.toNat).sum % 256) ∧
    (∀ xs : List Byte, checksum xs = 0xFF - sum8 xs ∧ checksum xs = 0xFF ^^^ sum8 xs) ∧
    checksum [] = 0xFF ∧ (∀ xs : List Byte, (xs.map BitVec.toNat).sum % 256 = 0 → checksum xs = 0xFF) ∧
    checksum [0x80, 0x80] = 0xFF ∧ checksum [0xFF] = 0x00 ∧ checksum [0x01, 0x04, 0x03, 0x28, 0x01] = 0xCE ∧
    ∀ (id cmd : Byte) (data : List Byte),
      (wireFrame id cmd data).getLast? =
        some (checksum (slice (wireFrame id cmd data) 2 ((wireFrame id cmd data).length - 1)))

/-- 40_codec.md R58: what `encode` builds, its size, and when it is `EncodeOverflow`: for `MAX_PARAMS = 57`, and
for every other `MAX_PARAMS` with which `L = n + 3` still fits in a byte. -/
def Obligations.EncodeBuildsTheFrame : Prop :=
  (∀ (maxParams : Nat) (id cmd addr : Byte) (params : List Byte), maxParams ≤ 252 →
    (maxParams < params.length → encodeFrame maxParams id cmd addr params = .error .encodeOverflow) ∧
      (params.length ≤ maxParams → ∃ (len : Byte) (f : List Byte), len.toNat = params.length + 3 ∧
        encodeFrame maxParams id cmd addr params = .ok f ∧
        f = [0xFF, 0xFF] ++ ([id, len, cmd, addr] ++ params) ++ [checksum ([id, len, cmd, addr] ++ params)] ∧
        f.length = params.length + 7 ∧ f.length ≤ maxParams + 7)) ∧
    ({} : Config).maxParams = 57 ∧ ({} : Config).txCapacity = 57 + 7 ∧
    encodeFrame 57 0x01 0x03 0x28 [0x01] = .ok [0xFF, 0xFF, 0x01, 0x04, 0x03, 0x28, 0x01, 0xCE]

/-- 40_codec.md R59: the tests of `decode` in their order, the value it returns, and the worked example. -/
def Obligations.DecodeFrameTestsInOrder : Prop :=
  (∀ f : List Byte,
    (f.length < 7 ∨ f.getD 0 0 ≠ 0xFF ∨ f.getD 1 0 ≠ 0xFF ∨ f.length ≠ 4 + (f.getD 3 0).toNat →
      decodeFrame f = .error .notAFrame) ∧
    (7 ≤ f.length → f.getD 0 0 = 0xFF → f.getD 1 0 = 0xFF → f.length = 4 + (f.getD 3 0).toNat →
      (checksum (slice f 2 (f.length - 1)) ≠ f.getD (f.length - 1) 0 →
        decodeFrame f = .error .checksumMismatch) ∧
      (checksum (slice f 2 (f.length - 1)) = f.getD (f.length - 1) 0 →
        3 ≤ (f.getD 3 0).toNat ∧
        decodeFrame f = .ok (f.getD 2 0, f.getD 4 0, f.getD 5 0, slice f 6 (f.length - 1))))) ∧
    decodeFrame [0xFF, 0xFF, 0x01, 0x04, 0x03, 0x28, 0x01, 0xCE] = .ok (0x01, 0x03, 0x28, [0x01])

/-- 40_codec.md R60, LAW1 and LAW4: `decode` inverts `encode` up to `MAX_PARAMS`, the last byte is the complement
of the sum, and `encode` is injective. `Valid` bounds `TX_CAPACITY` by log entry 9. -/
def Obligations.FrameCodecRoundTrip : Prop :=
  (∀ (c : Config) (id cmd addr : Byte) (params : List Byte), c.Valid → params.length ≤ c.maxParams →
    ∃ f, encodeFrame c.maxParams id cmd addr params = .ok f ∧
      decodeFrame f = .ok (id, cmd, addr, params) ∧
      f.getLast? = some (~~~ (sum8 (slice f 2 (f.length - 1))))) ∧
    ∀ (c : Config) (id cmd addr id' cmd' addr' : Byte) (params params' f : List Byte), c.Valid →
      encodeFrame c.maxParams id cmd addr params = .ok f →
      encodeFrame c.maxParams id' cmd' addr' params' = .ok f →
      (id, cmd, addr, params) = (id', cmd', addr', params')

/-- 40_codec.md R60, LAW2 and LAW3: in a frame that passes the checksum test the bytes from the id through the
checksum sum to `0xFF`, and changing any one of them makes the test fail. -/
def Obligations.ChecksumDetectsOneChangedByte : Prop :=
  ∀ f : List Byte, 3 ≤ f.length → checksum (slice f 2 (f.length - 1)) = f.getD (f.length - 1) 0 →
    sum8 (slice f 2 f.length) = 0xFF ∧
    ∀ (k : Nat) (b : Byte), 2 ≤ k → k < f.length → b ≠ f.getD k 0 →
      checksum (slice (f.set k b) 2 (f.length - 1)) ≠ (f.set k b).getD (f.length - 1) 0

/-! ### Decoding -/

/-- Every well-formed instruction is read back from its encoding: frames by 30_encoding.md R46 and R49, events by
the transaction codes of R52 and the model's operand layout (log entry 3). -/
def Obligations.DecodeInvertsEncode : Prop :=
  ∀ i : Instr, i.wellFormed = true → decode (encode i) = .ok i

/-- The other direction (log entry 3 for events): what the decoder accepts is the encoding of the instruction it
reads, so no two byte lists stand for one instruction and nothing else is accepted. -/
def Obligations.EncodeInvertsDecode : Prop :=
  ∀ (bs : List Byte) (i : Instr), decode bs = .ok i → encode i = bs ∧ i.wellFormed = true

/-- Words written out from the spec's encodings and the instructions they stand for (95_test_vectors.md). The last
two are event packets: their codes are those of 30_encoding.md R52, their operand layout is the model's choice (log
entry 3). -/
def Obligations.SampleWordsDecode : Prop :=
  decode [0xFF, 0xFF, 0x01, 0x04, 0x00, 0x02, 0x00, 0xF8] = .ok (.response 0x01 [0x02, 0x00]) ∧
    decode [0xFF, 0xFF, 0x01, 0x02, 0x01, 0xFB] = .ok (.responseAlt 0x01 []) ∧
    decode [0xFF, 0xFF, 0x01, 0x04, 0x02, 0x38, 0x02, 0xBE] = .ok (.read 0x01 [0x38, 0x02]) ∧
    decode [0xFF, 0xFF, 0x01, 0x04, 0x03, 0x28, 0x01, 0xCE] = .ok (.write 0x01 [0x28, 0x01]) ∧
    decode [0xFF, 0xFF, 0x01, 0x03, 0x04, 0x01, 0xF6] = .ok (.unknown04 0 0x01 [0x01]) ∧
    decode [0x00, 0xFC] = .ok (.rx 0xFC) ∧ decode [0x07] = .ok .reset

/-- A first byte of 8 or more begins no event (30_encoding.md R52 and the opcode table's last row: codes 0x8 to
0xF are not events), and step refuses such a packet by name (log entry 4). -/
def Obligations.OtherCodesAreNoEvents : Prop :=
  ∀ (c : Byte) (ops : List Byte), 8 ≤ c.toNat →
    decodeEvent (c :: ops) = .error .notAnEvent ∧
    ∀ (s : State) (rest : List (List Byte)), s.inbox = (c :: ops) :: rest → step s = .refused .notAnEvent

/-! ### The step -/

/-- A step takes the oldest packet of the inbox and runs the event it decodes to; with no packet it waits. The inbox
is the model's own (log entries 1 and 2). -/
def Obligations.StepRunsTheDecodedEvent : Prop :=
  ∀ s : State,
    (s.inbox = [] → step s = .next s) ∧
    ∀ (p : List Byte) (rest : List (List Byte)) (i : Instr), s.inbox = p :: rest → decodeEvent p = .ok i →
      step s = exec i { s with inbox := rest }

/-- The frame rows (log entry 5) run when their last byte arrives (41_framer.md R67, 42_demux.md R71): the RX that
completes an accepted frame does to table, queues, tags, fault and outputs what the frame's instruction does, and
leaves the framer in SEEKING with an empty lookback. -/
def Obligations.LastByteRunsTheFrame : Prop :=
  ∀ (s : State) (b : Byte) (i : Instr), s.Inv → s.fault = none → s.fstate = .body → s.remaining = 1 →
    s.idx + 1 ≤ s.cfg.rxCapacity → decodeWire (s.rxbuf.take s.idx ++ [b]) = .ok i →
    ∃ t u, exec (.rx b) s = .next t ∧ exec i s = .next u ∧ t.Idle ∧ SameBeyondFramer u t

/-! ### Received frames -/

/-- 42_demux.md R71: the echo of a READ or WRITE is dropped with no output, whatever the state. -/
def Obligations.EchoesAreDropped : Prop :=
  ∀ (s : State) (id : Byte) (data : List Byte),
    exec (.read id data) s = .next s ∧ exec (.write id data) s = .next s

/-- 42_demux.md R71 and 30_encoding.md R50: a command byte from `0x04` to `0xFF` is logged with the id and the
byte, for each of the six rows the table splits these bytes into. -/
def Obligations.UnknownCommandsAreLogged : Prop :=
  ∀ (s : State) (id : Byte) (data : List Byte), s.fault = none →
    (∀ low, exec (.unknown04 low id data) s =
      .next { s with trace := s.trace ++ [.log .unknownCommand id (BitVec.ofNat 8 (0x04 + low.toNat))] }) ∧
    (∀ low, exec (.unknown08 low id data) s =
      .next { s with trace := s.trace ++ [.log .unknownCommand id (BitVec.ofNat 8 (0x08 + low.toNat))] }) ∧
    (∀ low, exec (.unknown10 low id data) s =
      .next { s with trace := s.trace ++ [.log .unknownCommand id (BitVec.ofNat 8 (0x10 + low.toNat))] }) ∧
    (∀ low, exec (.unknown20 low id data) s =
      .next { s with trace := s.trace ++ [.log .unknownCommand id (BitVec.ofNat 8 (0x20 + low.toNat))] }) ∧
    (∀ low, exec (.unknown40 low id data) s =
      .next { s with trace := s.trace ++ [.log .unknownCommand id (BitVec.ofNat 8 (0x40 + low.toNat))] }) ∧
    (∀ low, exec (.unknown80 low id data) s =
      .next { s with trace := s.trace ++ [.log .unknownCommand id (BitVec.ofNat 8 (0x80 + low.toNat))] })

/-- 42_demux.md R71: `classify` goes by the command byte alone: a READ or WRITE is dropped with no output, a
RESPONSE or RESPONSE_ALT is dispatched, any other command is logged. -/
def Obligations.ClassifyByCommand : Prop :=
  ∀ (s : State) (f : List Byte),
    (f.getD 4 0 = 0x02 ∨ f.getD 4 0 = 0x03 → s.classify f = s) ∧
    (f.getD 4 0 = 0x00 ∨ f.getD 4 0 = 0x01 →
      s.classify f = s.dispatch (f.getD 2 0) (f.getD 4 0) (slice f 5 (f.length - 1))) ∧
    (0x03 < f.getD 4 0 →
      s.classify f = { s with trace := s.trace ++ [.log .unknownCommand (f.getD 2 0) (f.getD 4 0)] })

/-- The frame rows as instructions (log entry 5): on a frame that passed the tests, that is, one that decodes to a
row (30_encoding.md R49, R50), `classify` does what the row's instruction does. -/
def Obligations.ClassifyRunsTheRow : Prop :=
  ∀ (s : State) (f : List Byte) (i : Instr), s.fault = none → decodeWire f = .ok i →
    exec i s = .next (s.classify f)

/-- 42_demux.md R73: a response frame whose id is not registered is logged with its id and command, and nothing
else happens; one whose id maps to a slot is delivered to that slot with the payload of R72, the frame's bytes
from offset `PAYLOAD_START` (its `data` begins at offset 5). RESPONSE and RESPONSE_ALT do the same. -/
def Obligations.ResponsesAreDispatchedById : Prop :=
  ∀ (s : State) (id : Byte) (data : List Byte), s.fault = none →
    (s.lookup id = none →
      exec (.response id data) s = .next { s with trace := s.trace ++ [.log .unknownId id 0x00] } ∧
      exec (.responseAlt id data) s = .next { s with trace := s.trace ++ [.log .unknownId id 0x01] }) ∧
    (∀ slot, s.lookup id = some slot → ∀ i ∈ [Instr.response id data, Instr.responseAlt id data],
      (s.cfg.payloadStart = .five → exec i s = .next (s.deliver slot data id)) ∧
      (s.cfg.payloadStart = .six → exec i s = .next (s.deliver slot (data.drop 1) id)))

/-- 43_correlator.md R81 with the payload of 42_demux.md R72: a response for a registered id resolves the oldest
pending request of the slot, or is logged `NoPending` (for a slot number above 255 the byte `a` of the log is a
free value, log entry 15, and the statement says nothing of it). -/
def Obligations.ResponseResolvesTheOldest : Prop :=
  ∀ (s : State) (id : Byte) (data : List Byte) (slot : Nat), s.fault = none → s.lookup id = some slot →
    ∀ i ∈ [Instr.response id data, Instr.responseAlt id data],
      (∀ t rest, s.queueOf slot = t :: rest →
        (s.cfg.payloadStart = .five →
          exec i s = .next { s with
            queue := s.queue.set slot rest
            trace := s.trace ++ [.clear t, .complete slot t (.response data)] }) ∧
        (s.cfg.payloadStart = .six →
          exec i s = .next { s with
            queue := s.queue.set slot rest
            trace := s.trace ++ [.clear t, .complete slot t (.response (data.drop 1))] })) ∧
      (s.queueOf slot = [] → ∃ a : Byte, (slot < 256 → a.toNat = slot) ∧
        exec i s = .next { s with trace := s.trace ++ [.log .noPending a id] })

/-! ### The framer -/

/-- 41_framer.md R63. -/
def Obligations.SeekingUnderLookback : Prop :=
  ∀ (s : State) (b : Byte), s.fault = none → s.fstate = .seeking → s.cfg.syncPolicy = .lookback →
    (b = 0xFF → s.idx = 1 →
      exec (.rx b) s = .next { s with rxbuf := s.rxbuf.set 1 0xFF, idx := 2, fstate := .header }) ∧
    (b = 0xFF → s.idx ≠ 1 → exec (.rx b) s = .next { s with rxbuf := s.rxbuf.set 0 0xFF, idx := 1 }) ∧
    (b ≠ 0xFF → exec (.rx b) s = .next { s with idx := 0 })

/-- 41_framer.md R64. -/
def Obligations.SeekingUnderPairReset : Prop :=
  ∀ (s : State) (b : Byte), s.fault = none → s.fstate = .seeking → s.cfg.syncPolicy = .pairReset →
    (s.idx = 0 → exec (.rx b) s = .next { s with rxbuf := s.rxbuf.set 0 b, idx := 1 }) ∧
    (s.idx ≠ 0 → s.byteAt 0 = 0xFF ∧ b = 0xFF →
      exec (.rx b) s = .next { s with rxbuf := s.rxbuf.set 1 0xFF, idx := 2, fstate := .header }) ∧
    (s.idx ≠ 0 → ¬ (s.byteAt 0 = 0xFF ∧ b = 0xFF) → exec (.rx b) s = .next { s with idx := 0 })

/-- 41_framer.md R65: HEADER takes the id, then the length; a length of 0 completes the frame at once, as
`LengthError`. -/
def Obligations.HeaderTakesIdAndLength : Prop :=
  ∀ (s : State) (b : Byte), s.Inv → s.fault = none → s.fstate = .header →
    (s.idx = 2 → exec (.rx b) s = .next { s with rxbuf := s.rxbuf.set 2 b, idx := 3 }) ∧
    (s.idx = 3 → b ≠ 0 → exec (.rx b) s =
      .next { s with rxbuf := s.rxbuf.set 3 b, idx := 4, remaining := b.toNat, fstate := .body }) ∧
    (s.idx = 3 → b = 0 → exec (.rx b) s =
      .next { s with
        rxbuf := s.rxbuf.set 3 0, idx := 0, remaining := 0, fstate := .seeking
        trace := s.trace ++ [.log .lengthError (s.byteAt 2) 0] })

/-- 41_framer.md R66: BODY stores (R62) and counts every byte until the counter reaches zero, whatever the byte;
the last one completes the frame (R67, `CompletionTestsInOrder`) and returns the framer to SEEKING. -/
def Obligations.BodyCountsDown : Prop :=
  ∀ (s : State) (b : Byte), s.fault = none → s.fstate = .body →
    (2 ≤ s.remaining → s.idx < s.cfg.rxCapacity → exec (.rx b) s =
      .next { s with rxbuf := s.rxbuf.set s.idx b, idx := s.idx + 1, remaining := s.remaining - 1 }) ∧
    (2 ≤ s.remaining → s.cfg.rxCapacity ≤ s.idx → exec (.rx b) s =
      .next { s with idx := s.idx + 1, remaining := s.remaining - 1 }) ∧
    (s.remaining = 1 →
      let u := { s with
        rxbuf := if s.idx < s.cfg.rxCapacity then s.rxbuf.set s.idx b else s.rxbuf
        idx := s.idx + 1, remaining := 0 }
      exec (.rx b) s = .next u.complete ∧
        u.complete.fstate = .seeking ∧ u.complete.idx = 0 ∧ u.complete.remaining = 0)

/-- 41_framer.md R67: capacity, then length, then checksum, then classification, and in every case back to
SEEKING. For a frame that ends in BODY (`L >= 1`), the frame is the bytes stored before, and `b`; a length byte of
0 ends the frame in HEADER (R65). -/
def Obligations.CompletionTestsInOrder : Prop :=
  ∀ (s : State) (b : Byte), s.Inv → s.fault = none →
    (s.fstate = .body → s.remaining = 1 →
      let id := s.byteAt 2
      let len := s.byteAt 3
      let f := s.rxbuf.take s.idx ++ [b]
      let t := { s with
        rxbuf := if s.idx < s.cfg.rxCapacity then s.rxbuf.set s.idx b else s.rxbuf
        fstate := .seeking, idx := 0, remaining := 0 }
      (s.cfg.rxCapacity < 4 + len.toNat → exec (.rx b) s = .next (t.log .rxOverflow id len)) ∧
      (4 + len.toNat ≤ s.cfg.rxCapacity → len.toNat < 2 → exec (.rx b) s = .next (t.log .lengthError id len)) ∧
      (4 + len.toNat ≤ s.cfg.rxCapacity → 2 ≤ len.toNat →
        (checksum (slice f 2 (f.length - 1)) ≠ b → exec (.rx b) s = .next (t.log .checksumMismatch id len)) ∧
        (checksum (slice f 2 (f.length - 1)) = b → exec (.rx b) s = .next (t.classify f)))) ∧
    (s.fstate = .header → s.idx = 3 → b = 0 →
      let t := { s with rxbuf := s.rxbuf.set 3 0, fstate := .seeking, idx := 0, remaining := 0 }
      exec (.rx b) s = .next (t.log .lengthError (s.byteAt 2) 0))

/-- 41_framer.md R70, FP1: outside SEEKING the framer is back in SEEKING, with `idx = 0`, after at most
`4 + 255 - idx` bytes from HEADER and after exactly `remaining = 4 + L - idx` bytes from BODY, whatever they are. -/
def Obligations.FramerNeverWedges : Prop :=
  ∀ (s : State) (bs : List Byte), s.Inv → s.fault = none →
    (s.fstate = .body → bs.length = s.remaining → ∃ t, feed bs s = .next t ∧ t.Idle) ∧
    (s.fstate = .header → 4 + 255 - s.idx ≤ bs.length →
      ∃ k t, k ≤ 4 + 255 - s.idx ∧ feed (bs.take k) s = .next t ∧ t.Idle)

/-- 41_framer.md R70, FP2: under LOOKBACK HEADER is entered exactly after the first two consecutive `FF` bytes. -/
def Obligations.LookbackSyncPoint : Prop :=
  ∀ (s : State) (bs : List Byte), s.Idle → s.fault = none → s.cfg.syncPolicy = .lookback →
    hasPreamble bs = false →
    (∃ t, feed bs s = .next t ∧ t.fstate = .seeking) ∧
    (bs.getLast? = some 0xFF → ∃ t, feed (bs ++ [0xFF]) s = .next t ∧ t.fstate = .header ∧ t.idx = 2)

/-- 41_framer.md R70, FP3: under PAIR_RESET HEADER is entered exactly after the first `FF FF` at an even offset. -/
def Obligations.PairResetSyncPoint : Prop :=
  ∀ (s : State) (bs : List Byte), s.Idle → s.Sized → s.cfg.Valid → s.fault = none →
    s.cfg.syncPolicy = .pairReset → bs.length % 2 = 0 → hasAlignedPreamble bs = false →
    (∃ t, feed bs s = .next t ∧ t.fstate = .seeking ∧ t.idx = 0) ∧
    (∀ b, ∃ t, feed (bs ++ [b]) s = .next t ∧ t.fstate = .seeking) ∧
    (∃ t, feed (bs ++ [0xFF, 0xFF]) s = .next t ∧ t.fstate = .header ∧ t.idx = 2)

/-- 41_framer.md R70, FP4 (90_conflicts.md C6): quiet noise, then a frame the decoder accepts and the buffer holds,
then a tail without two consecutive `FF`: exactly that frame's instruction takes effect, by the time the tail
begins, and the tail has none. -/
def Obligations.NoiseAroundOneFrame : Prop :=
  ∀ (s : State) (noise f : List Byte) (i : Instr), s.Idle → s.Sized → s.cfg.Valid → s.fault = none →
    QuietNoise s.cfg.syncPolicy noise → decodeWire f = .ok i → f.length ≤ s.cfg.rxCapacity →
    ∃ t u, exec i s = .next u ∧ feed (noise ++ f) s = .next t ∧ t.Idle ∧ SameBeyondFramer u t ∧
      ∀ tail, hasPreamble tail = false →
        ∃ v, feed (noise ++ f ++ tail) s = .next v ∧ v.fstate = .seeking ∧ SameBeyondFramer t v

/-- 41_framer.md R70, FP5: a frame that the buffer holds and whose checksum byte is wrong is logged, changes
nothing else outside the framer, and leaves SEEKING with an empty lookback. -/
def Obligations.WrongChecksumIsLogged : Prop :=
  ∀ (s : State) (id len chk : Byte) (body : List Byte), s.Idle → s.Sized → s.cfg.Valid → s.fault = none →
    len.toNat = body.length + 1 → 2 ≤ len.toNat → 4 + len.toNat ≤ s.cfg.rxCapacity →
    chk ≠ checksum (id :: len :: body) →
    ∃ t, feed ([0xFF, 0xFF, id, len] ++ body ++ [chk]) s = .next t ∧ t.Idle ∧
      SameBeyondFramer { s with trace := s.trace ++ [.log .checksumMismatch id len] } t

/-- The framer reads nothing of the table, the queues, the tags or the outputs (10_state.md R18 to R21 name the
rules that write its fields): two states that agree on the framer, the parameters and the fault still agree on
the framer after the same byte. -/
def Obligations.FramerIgnoresTheRest : Prop :=
  ∀ (s s' t t' : State) (b : Byte), SameFramer s s' → s'.cfg = s.cfg → s'.fault = s.fault →
    exec (.rx b) s = .next t → exec (.rx b) s' = .next t' → SameFramer t t'

/-! ### Registration and raw transmission -/

/-- 42_demux.md R74. -/
def Obligations.RegisterChecksThenBinds : Prop :=
  ∀ (s : State) (id : Byte) (slot : Nat),
    (s.fault ≠ none → exec (.register id slot) s = .next { s with trace := s.trace ++ [.result .faulted] }) ∧
    (s.fault = none →
      (s.cfg.numEndpoints ≤ slot →
        exec (.register id slot) s = .next { s with trace := s.trace ++ [.result .badSlot] }) ∧
      (slot < s.cfg.numEndpoints →
        (0xFC < id → exec (.register id slot) s = .next { s with trace := s.trace ++ [.result .idOutOfRange] }) ∧
        (id ≤ 0xFC →
          (s.lookup id ≠ none →
            exec (.register id slot) s = .next { s with trace := s.trace ++ [.result .alreadyRegistered] }) ∧
          (s.lookup id = none → ∃ t, exec (.register id slot) s = .next t ∧
            t = { s with regtable := t.regtable, trace := s.trace ++ [.result .ok] } ∧
            t.lookup id = some slot ∧ ∀ id', id' ≠ id → t.lookup id' = s.lookup id'))))

/-- 42_demux.md R75. -/
def Obligations.UnregisterIsIdempotent : Prop :=
  ∀ (s : State) (id : Byte),
    (s.fault ≠ none → exec (.unregister id) s = .next { s with trace := s.trace ++ [.result .faulted] }) ∧
    (s.fault = none → ∃ t, exec (.unregister id) s = .next t ∧
      t = { s with regtable := t.regtable, trace := s.trace ++ [.result .ok] } ∧
      t.lookup id = none ∧ (∀ id', id' ≠ id → t.lookup id' = s.lookup id') ∧
      (s.lookup id = none → t.regtable = s.regtable) ∧
      exec (.unregister id) t = .next { t with trace := t.trace ++ [.result .ok] })

/-- 42_demux.md R76. -/
def Obligations.QueryReadsTheTable : Prop :=
  ∀ (s : State) (id : Byte),
    (s.fault ≠ none → exec (.query id) s = .next { s with trace := s.trace ++ [.result .faulted] }) ∧
    (s.fault = none →
      (s.lookup id = none → exec (.query id) s = .next { s with trace := s.trace ++ [.result .notRegistered] }) ∧
      (∀ slot, s.lookup id = some slot →
        exec (.query id) s = .next { s with trace := s.trace ++ [.result (.registered slot)] }))

/-- 42_demux.md R77. -/
def Obligations.RawSendTransmitsUnchanged : Prop :=
  ∀ (s : State) (bytes : List Byte),
    (s.fault ≠ none → exec (.rawsend bytes) s = .next { s with trace := s.trace ++ [.result .faulted] }) ∧
    (s.fault = none → exec (.rawsend bytes) s = .next { s with trace := s.trace ++ [.tx bytes, .result .ok] })

/-- 42_demux.md R78, DP1, DP2 and DP5: an id maps to one slot at most; only REGISTER binds a free id, only
UNREGISTER (or RESET) frees one, and nothing replaces one slot by another. -/
def Obligations.OnlyRegistrationMovesTheTable : Prop :=
  ∀ (i : Instr) (s t : State) (id : Byte), exec i s = .next t → t.lookup id ≠ s.lookup id →
    (s.lookup id = none ∧ ∃ slot, i = .register id slot ∧ t.lookup id = some slot) ∨
    (t.lookup id = none ∧ (i = .unregister id ∨ i = .reset))

/-! ### The correlator -/

/-- 43_correlator.md R79: the checks in their order, what each answers, and the accepted request. The tag is the
one R80 defines (`FreeTagIsTheFirstUnused`). -/
def Obligations.SendChecksThenIssues : Prop :=
  ∀ (s : State) (slot : Nat) (id cmd addr : Byte) (params : List Byte),
    (s.fault ≠ none →
      exec (.send slot id cmd addr params) s = .next { s with trace := s.trace ++ [.result .faulted] }) ∧
    (s.fault = none →
      (s.cfg.numEndpoints ≤ slot →
        exec (.send slot id cmd addr params) s = .next { s with trace := s.trace ++ [.result .badSlot] }) ∧
      (slot < s.cfg.numEndpoints →
        (cmd ≠ 0x02 ∧ cmd ≠ 0x03 →
          exec (.send slot id cmd addr params) s = .next { s with trace := s.trace ++ [.result .badCommand] }) ∧
        (cmd = 0x02 ∨ cmd = 0x03 →
          (s.lookup id ≠ some slot →
            exec (.send slot id cmd addr params) s =
              .next { s with trace := s.trace ++ [.result .notRegistered] }) ∧
          (s.lookup id = some slot →
            (s.cfg.maxParams < params.length →
              exec (.send slot id cmd addr params) s =
                .next { s with fault := some .encodeOverflow, trace := s.trace ++ [.result .encodeOverflow] }) ∧
            (params.length ≤ s.cfg.maxParams → s.Inv →
              ((s.queueOf slot).length = s.cfg.queueDepth →
                exec (.send slot id cmd addr params) s =
                  .next { s with trace := s.trace ++ [.result .queueFull] }) ∧
              ((s.queueOf slot).length < s.cfg.queueDepth → ∃ t f, s.freeTag = some t ∧ t ∉ s.pending ∧
                encodeFrame s.cfg.maxParams id cmd addr params = .ok f ∧
                exec (.send slot id cmd addr params) s =
                  .next { s with
                    queue := s.queue.set slot (s.queueOf slot ++ [t])
                    nextTag := t + 1
                    trace := s.trace ++ [.arm t s.cfg.timeoutMs, .tx f, .result (.okTag t)] }))))))

/-- 43_correlator.md R80: the first tag in cyclic order from `next_tag` that no queue holds; it exists whenever a
queue has room. -/
def Obligations.FreeTagIsTheFirstUnused : Prop :=
  ∀ s : State, s.Inv →
    (∀ slot, slot < s.cfg.numEndpoints → (s.queueOf slot).length < s.cfg.queueDepth →
      ∃ k, k < 65536 ∧ s.freeTag = some (s.nextTag + BitVec.ofNat 16 k) ∧
        s.nextTag + BitVec.ofNat 16 k ∉ s.pending ∧
        ∀ j, j < k → s.nextTag + BitVec.ofNat 16 j ∈ s.pending) ∧
    (s.nextTag ∉ s.pending → s.freeTag = some s.nextTag)

/-- 43_correlator.md R82: the expiry removes exactly the request the timer belongs to, wherever it stands in its
queue; the expiry of a tag that is not pending has no effect. -/
def Obligations.ExpireRemovesItsRequest : Prop :=
  ∀ (s : State) (t : Tag),
    (s.fault ≠ none → exec (.expire t) s = .next s) ∧
    (s.fault = none →
      (t ∉ s.pending → exec (.expire t) s = .next s) ∧
      (∀ slot before after, s.QueueInv → s.queueOf slot = before ++ t :: after →
        exec (.expire t) s = .next { s with
          queue := s.queue.set slot (before ++ after)
          trace := s.trace ++ [.complete slot t .timeout] }))

/-- 43_correlator.md R84, CP1 and CP3: the outputs of an instruction hold at most one `Complete`; it names a request
that was pending in that slot and is pending nowhere afterwards, and a `Response` resolves the slot's oldest. -/
def Obligations.CompletionsAreNeverRepeated : Prop :=
  ∀ (i : Instr) (s u : State) (slot : Nat) (t : Tag) (r : Resolution), s.Inv → exec i s = .next u →
    Output.complete slot t r ∈ newOutputs s u →
    t ∈ s.queueOf slot ∧ t ∉ u.pending ∧
    (∀ payload, r = .response payload → (s.queueOf slot).head? = some t) ∧
    (newOutputs s u).filter Output.isComplete = [.complete slot t r]

/-- 43_correlator.md R84, CP4 (90_conflicts.md C7): after the oldest request of a slot has timed out, a response
for the slot never resolves it: with no newer request pending it is logged `NoPending`, otherwise it resolves the
newer one. -/
def Obligations.LateResponseMissesItsRequest : Prop :=
  ∀ (s : State) (id : Byte) (data : List Byte) (slot : Nat) (t : Tag) (rest : List Tag), s.Inv →
    s.fault = none → s.lookup id = some slot → s.queueOf slot = t :: rest →
    ∃ u v, exec (.expire t) s = .next u ∧ exec (.response id data) u = .next v ∧
      (rest = [] → ∃ a, newOutputs s v = [.complete slot t .timeout, .log .noPending a id]) ∧
      (∀ t' rest', rest = t' :: rest' → ∃ p, v.queueOf slot = rest' ∧
        newOutputs s v = [.complete slot t .timeout, .clear t', .complete slot t' (.response p)])

/-- 60_exceptions.md R103: where the response's last byte and the expiry of the slot's oldest request are both
ready, either order resolves it once: after the response the expiry has no effect, after the expiry the request is
gone. -/
def Obligations.EitherOrderResolvesOnce : Prop :=
  ∀ (s : State) (id : Byte) (data : List Byte) (slot : Nat) (t : Tag) (rest : List Tag), s.Inv →
    s.fault = none → s.lookup id = some slot → s.queueOf slot = t :: rest →
    (∃ u p, exec (.response id data) s = .next u ∧ u.queueOf slot = rest ∧
      newOutputs s u = [.clear t, .complete slot t (.response p)] ∧ exec (.expire t) u = .next u) ∧
    ∃ v, exec (.expire t) s = .next v ∧ v.queueOf slot = rest ∧ newOutputs s v = [.complete slot t .timeout] ∧
      t ∉ v.pending

/-- 70_reset_and_hazards.md R115: the acknowledgment that carries a new id resolves the oldest request of the slot
if the id has been registered before it completes, and is dropped as `UnknownId` otherwise. -/
def Obligations.AckNeedsTheNewIdRegistered : Prop :=
  ∀ (s : State) (new : Byte) (data : List Byte) (slot : Nat) (t : Tag) (rest : List Tag), s.fault = none →
    new ≤ 0xFC → slot < s.cfg.numEndpoints → s.lookup new = none → s.queueOf slot = t :: rest →
    (∃ u v p, exec (.register new slot) s = .next u ∧ exec (.response new data) u = .next v ∧
      v.trace = s.trace ++ [.result .ok, .clear t, .complete slot t (.response p)] ∧ v.queueOf slot = rest) ∧
    exec (.response new data) s = .next { s with trace := s.trace ++ [.log .unknownId new 0x00] }

/-- 43_correlator.md R84, CP5, and 60_exceptions.md R101: a transaction that answers a refusal changes nothing but
the outputs, which are that one answer. -/
def Obligations.RefusalsChangeNothing : Prop :=
  ∀ (i : Instr) (s t : State) (r : Answer), exec i s = .next t → Output.result r ∈ newOutputs s t →
    r.isRefusal = true → t = { s with trace := s.trace ++ [.result r] }

/-! ### Timers -/

/-- 10_state.md R26 and 43_correlator.md R83: the timers that the outputs of the block have left armed are, after
every step, exactly those of the pending requests. -/
def Obligations.ArmedTimersMatchPendingKept : Prop :=
  ∀ s t : State, s.Inv → s.TimersMatch → step s = .next t → t.TimersMatch

/-- 43_correlator.md R82 and R84, CP2: an expiry that obeys duties T1 and T2, that is, of a timer still armed,
always times out its own request, and that timer is armed no more. -/
def Obligations.HonestExpiryTimesOut : Prop :=
  ∀ (s : State) (t : Tag), s.Inv → s.TimersMatch → s.fault = none → t ∈ armedTimers s.trace →
    ∃ slot u, t ∈ s.queueOf slot ∧ exec (.expire t) s = .next u ∧
      u.trace = s.trace ++ [.complete slot t .timeout] ∧ t ∉ u.pending ∧ t ∉ armedTimers u.trace

/-! ### The fault, the outputs, reset -/

/-- 60_exceptions.md R98: only SEND with too many parameters sets the fault, and then the step does nothing but
set it and answer `ENCODE_OVERFLOW`. -/
def Obligations.OnlySendOverflowFaults : Prop :=
  (∀ (s : State) (slot : Nat) (id cmd addr : Byte) (params : List Byte), s.fault = none →
    slot < s.cfg.numEndpoints → cmd = 0x02 ∨ cmd = 0x03 → s.lookup id = some slot →
    s.cfg.maxParams < params.length →
    exec (.send slot id cmd addr params) s =
      .next { s with fault := some .encodeOverflow, trace := s.trace ++ [.result .encodeOverflow] }) ∧
    ∀ (i : Instr) (s t : State), s.fault = none → exec i s = .next t → t.fault ≠ none →
      ∃ slot id cmd addr params, i = .send slot id cmd addr params ∧ s.cfg.maxParams < params.length ∧
        t = { s with fault := some .encodeOverflow, trace := s.trace ++ [.result .encodeOverflow] }

/-- 60_exceptions.md R99 (10_state.md INV6): while the fault is set, received bytes and expiries have no effect, and
so have the frame rows, which the framer runs (log entry 5); every transaction answers `FAULTED` and does nothing
else, and RESET clears the fault. -/
def Obligations.FaultedBlockOnlyAnswers : Prop :=
  ∀ (i : Instr) (s : State), s.fault ≠ none →
    (i ≠ .reset → isTransaction i = false → exec i s = .next s) ∧
    (isTransaction i = true → exec i s = .next { s with trace := s.trace ++ [.result .faulted] }) ∧
    (i = .reset → ∃ t, exec i s = .next t ∧ t.fault = none)

/-- 30_encoding.md R54 (90_conflicts.md C10): each transaction emits exactly one `Result`, as its last output;
RX, EXPIRE, RESET and received frames emit none. -/
def Obligations.OneResultPerTransaction : Prop :=
  ∀ (i : Instr) (s t : State), exec i s = .next t →
    (isTransaction i = true → ∃ outs r, newOutputs s t = outs ++ [.result r] ∧
      ∀ o ∈ outs, o.isResult = false) ∧
    (isTransaction i = false → ∀ o ∈ newOutputs s t, o.isResult = false)

/-- 70_reset_and_hazards.md R110: RESET cancels every timer of a pending request, in slot order and queue order,
emits nothing else, and leaves every field of 10_state.md R28 at its reset value; it says nothing of the receive
buffer. -/
def Obligations.ResetClearsEverything : Prop :=
  ∀ s : State, ∃ t, exec .reset s = .next t ∧
    t.fstate = .seeking ∧ t.idx = 0 ∧ t.remaining = 0 ∧ (∀ id, t.lookup id = none) ∧
    t.queue.length = s.cfg.numEndpoints ∧ (∀ slot, t.queueOf slot = []) ∧ t.nextTag = 0 ∧ t.fault = none ∧
    newOutputs s t = (s.queue.map (fun q => q.map Output.clear)).flatten ∧ t.cfg = s.cfg ∧ t.inbox = s.inbox

/-! ### The whole machine -/

/-- 10_state.md R28: the reset values it states, for every build (the receive buffer, which it leaves unspecified,
is not mentioned: log entry 12). -/
def Obligations.ResetValuesAreTheSpecs : Prop :=
  ∀ c : Config,
    let s := State.resetWith c
    s.fstate = .seeking ∧ s.idx = 0 ∧ s.remaining = 0 ∧ s.rxbuf.length = c.rxCapacity ∧
      (∀ id, s.lookup id = none) ∧ s.queue.length = c.numEndpoints ∧ (∀ slot, s.queueOf slot = []) ∧
      s.nextTag = 0 ∧ s.fault = none ∧ s.inbox = [] ∧ s.trace = []

/-- 10_state.md R28 and R27: the reset state of every valid build (log entry 9) has the invariants, and no timer is
armed; the default build (log entry 8) among them. -/
def Obligations.InvariantsHoldAtReset : Prop :=
  (∀ c : Config, c.Valid → (State.resetWith c).Inv ∧ (State.resetWith c).TimersMatch) ∧ State.reset.Inv

/-- 10_state.md R27, INV1 to INV5: every step keeps them, from every state that has them. -/
def Obligations.EveryStepKeepsTheInvariants : Prop :=
  ∀ s t : State, s.Inv → step s = .next t → t.Inv

/-- Every instruction completes in every state with the invariants: the framer never refuses a byte and never
stops (41_framer.md R61), a refused transaction is an answer (60_exceptions.md R100), and SEND finds a free tag
(43_correlator.md R80). -/
def Obligations.EveryInstructionCompletes : Prop :=
  ∀ (i : Instr) (s : State), s.Inv → ∃ t, exec i s = .next t

/-- Frame: an instruction other than RX and RESET leaves the framer alone (10_state.md R18 to R21). -/
def Obligations.OnlyBytesMoveTheFramer : Prop :=
  ∀ (i : Instr) (s t : State), exec i s = .next t → (∀ b, i ≠ .rx b) → i ≠ .reset → SameFramer s t

/-- Frame: which instructions may write the queues and the tag counter (10_state.md R23, R24); for the queues, a
received byte and a response frame only by a delivery, which removes the oldest tag of one slot. -/
def Obligations.WhoWritesTheQueues : Prop :=
  ∀ (i : Instr) (s t : State), exec i s = .next t →
    (t.queue ≠ s.queue →
      (∃ slot id cmd addr params, i = .send slot id cmd addr params) ∨ (∃ tag, i = .expire tag) ∨ i = .reset ∨
      ∃ slot tag rest, s.queueOf slot = tag :: rest ∧ t.queue = s.queue.set slot rest ∧
        ((∃ b, i = .rx b) ∨ (∃ id data, i = .response id data) ∨ ∃ id data, i = .responseAlt id data)) ∧
    (t.nextTag ≠ s.nextTag → (∃ slot id cmd addr params, i = .send slot id cmd addr params) ∨ i = .reset)

/-- Frame: no instruction changes the parameters (00_scope.md R8) or the events still to come, none takes back an
output, and only RESET draws an unspecified value. -/
def Obligations.ParametersAndInputsUntouched : Prop :=
  ∀ (i : Instr) (s t : State), exec i s = .next t →
    t.cfg = s.cfg ∧ t.inbox = s.inbox ∧ s.trace <+: t.trace ∧ (i ≠ .reset → t.freeCount = s.freeCount)

/-! ### Host-side parameter encodings -/

/-- 45_host_sequences.md R85: two-byte fields are big-endian. -/
def Obligations.TwoByteFieldsAreBigEndian : Prop :=
  (∀ v : BitVec 16, ∃ hi lo, be16 v = [hi, lo] ∧ hi.toNat = v.toNat / 256 ∧ lo.toNat = v.toNat % 256 ∧
    unbe16 hi lo = v.toNat) ∧
    (∀ hi lo : Byte, unbe16 hi lo = hi.toNat * 256 + lo.toNat) ∧ be16 512 = [0x02, 0x00]

/-- 45_host_sequences.md R87: sign and magnitude of the calibration offset, which read back as it was written. That
a value out of range has no encoding is the model's choice, after 93_implementation_defined.md U14 (log entry 31,
DESIGN CHOICE). -/
def Obligations.OffsetsReadBack : Prop :=
  (∀ v : Int, -2000 ≤ v → v ≤ 2000 → ∃ w, encOffset v = some w ∧
    w.toNat = (if v < 0 then 0x8000 else 0) + v.natAbs ∧ decOffset w = v) ∧
    (∀ v : Int, v < -2000 ∨ 2000 < v → encOffset v = none) ∧
    (∀ w : BitVec 16, decOffset w = (if w.getLsbD 15 then -1 else 1) * ((w.toNat % 32768 : Nat) : Int)) ∧
    decOffset 0x8000 = 0 ∧ encOffset (-150) = some 0x8096 ∧ be16 0x8096 = [0x80, 0x96] ∧ decOffset 0x8096 = -150

/-- 45_host_sequences.md R86, in f64 (log entry 18): the sum of angle and offset, the clamp, then the floor; every
raw position of 0 to 1023 reads back, and the reverse is exact in f64 for every 16-bit value. -/
def Obligations.AnglesAreClampedThenFloored : Prop :=
  (∀ angle offset : Rat,
    let value := f64 (f64 angle + f64 offset)
    let x := f64 (f64 (value * 1024) / 200)
    0 ≤ rawOfAngle angle offset ∧ rawOfAngle angle offset ≤ 1023 ∧
      (value ≤ 0 → rawOfAngle angle offset = 0) ∧ (1023 ≤ x → rawOfAngle angle offset = 1023) ∧
      (0 ≤ x → x < 1023 → (rawOfAngle angle offset : Rat) ≤ x ∧ x < rawOfAngle angle offset + 1)) ∧
    (∀ raw : Nat, raw ≤ 1023 → rawOfAngle (degreesOfRaw raw) 0 = raw) ∧
    (∀ raw : Nat, raw < 65536 → degreesOfRaw raw = (raw : Rat) * 200 / 1024 ∧
      f64 (degreesOfRaw raw) = degreesOfRaw raw)

/-! ### Host operations -/

/-- 45_host_sequences.md, what "await" means: while an operation awaits a tag the host takes no transaction, other
events go on and do not end the await, and the `Complete` of the tag ends it with its resolution. -/
def Obligations.AwaitEndsAtItsCompletion : Prop :=
  ∀ (α : Type) (t : Tag) (next : Resolution → HostOp α) (s u : State) (i : Instr), s.Inv → exec i s = .next u →
    let c : Session α := ⟨s, .await t next⟩
    c.move .host = .next c ∧
    ((∀ slot r, Output.complete slot t r ∉ newOutputs s u) → c.move (.event i) = .next ⟨u, .await t next⟩) ∧
    ∀ slot r, Output.complete slot t r ∈ newOutputs s u → c.move (.event i) = .next ⟨u, next r⟩

/-- 45_host_sequences.md R88 to R92 and R94: the requests of `set_torque`, `set_angle`, `read_status` and
`read_offset_angle` and how each ends, with `Timeout`, `ShortResponse` or its value; `set_angle_in_time` in either
framing of the time bytes the source leaves open (log entry 25); `request_read_status`, which does not await;
`set_offset_angle`, three writes, each awaited before the next, which a `Timeout` ends (log entry 30), and which
sends nothing for a value out of range (the model's choice, after 93_implementation_defined.md U14; log entry 31,
DESIGN CHOICE); constructing an endpoint, which fails with `IdAlreadyRegistered` on a taken id; and a `Send` with too
many parameters, awaited or not, which ends with `EncodeOverflow` whatever was to follow it. -/
def Obligations.OperationsSendAwaitAndEnd : Prop :=
  ∀ (s : State) (slot : Nat) (id : Byte),
    (∀ enabled, s.Accepts slot id 1 → ∃ u next,
      Sends (setTorque slot id enabled) s slot id 0x03 40 [if enabled then 1 else 0] [] [] u next ∧
        (∀ p, next (.response p) = .ended (.result ())) ∧ next .timeout = .ended (.failed .timeout)) ∧
    (∀ angle offset, s.Accepts slot id 2 → ∃ u next,
      Sends (setAngle slot id angle offset) s slot id 0x03 42
        (be16 (BitVec.ofInt 16 (rawOfAngle angle offset))) [] [] u next ∧
        (∀ p, next (.response p) = .ended (.result ())) ∧ next .timeout = .ended (.failed .timeout)) ∧
    (∀ angle offset time, s.Accepts slot id (2 + time.length) → ∃ u next,
      Sends (setAngleInTime slot id angle offset .oneFrame time) s slot id 0x03 42
        (be16 (BitVec.ofInt 16 (rawOfAngle angle offset)) ++ time) [] [] u next ∧
        (∀ p, next (.response p) = .ended (.result ())) ∧ next .timeout = .ended (.failed .timeout)) ∧
    (∀ angle offset time, s.Accepts slot id 2 → ∃ u next,
      Sends (setAngleInTime slot id angle offset .secondFrame time) s slot id 0x03 42
        (be16 (BitVec.ofInt 16 (rawOfAngle angle offset))) [] [] u next ∧
        next .timeout = .ended (.failed .timeout) ∧
        ∀ p s', s'.Accepts slot id time.length → ∃ u' next',
          Sends (next (.response p)) s' slot id 0x03 44 time [] [] u' next' ∧
          (∀ p', next' (.response p') = .ended (.result ())) ∧ next' .timeout = .ended (.failed .timeout)) ∧
    (∀ params, s.Accepts slot id params.length →
      (∃ u next, Sends (readStatus slot id params) s slot id 0x02 56 params [] [] u next ∧
        (∀ hi lo rest, next (.response (hi :: lo :: rest)) =
          .ended (.result ((unbe16 hi lo : Rat) * 200 / 1024))) ∧
        (∀ p, p.length < 2 → next (.response p) = .ended (.failed .shortResponse)) ∧
        next .timeout = .ended (.failed .timeout)) ∧
      (∃ u next, Sends (readOffset slot id params) s slot id 0x02 31 params [] [] u next ∧
        (∀ hi lo rest, next (.response (hi :: lo :: rest)) =
          .ended (.result (decOffset (BitVec.ofNat 16 (unbe16 hi lo))))) ∧
        (∀ p, p.length < 2 → next (.response p) = .ended (.failed .shortResponse)) ∧
        next .timeout = .ended (.failed .timeout)) ∧
      ∃ t u, s.freeTag = some t ∧ exec (.send slot id 0x02 56 params) s = .next u ∧
        (requestReadStatus slot id params).resume s = .next ⟨u, .ended (.result t)⟩) ∧
    (∀ v w, encOffset v = some w → s.Accepts slot id 1 → ∃ u next,
      Sends (setOffset slot id v) s slot id 0x03 48 [0] [] [] u next ∧
        next .timeout = .ended (.failed .timeout) ∧
        ∀ p s', s'.Accepts slot id 2 → ∃ u' next',
          Sends (next (.response p)) s' slot id 0x03 31 (be16 w) [] [] u' next' ∧
          next' .timeout = .ended (.failed .timeout) ∧
          ∀ p' s'', s''.Accepts slot id 1 → ∃ u'' next'',
            Sends (next' (.response p')) s'' slot id 0x03 48 [1] [] [] u'' next'' ∧
            (∀ p'', next'' (.response p'') = .ended (.result ())) ∧ next'' .timeout = .ended (.failed .timeout)) ∧
    (∀ v, encOffset v = none → (setOffset slot id v).resume s = .next ⟨s, .ended .offsetRefused⟩) ∧
    (s.fault = none → slot < s.cfg.numEndpoints → id ≤ 0xFC →
      (s.lookup id = none → ∃ u, (construct slot id).resume s = .next ⟨u, .ended (.result ())⟩ ∧
        u.lookup id = some slot ∧ newOutputs s u = [.result .ok]) ∧
      (s.lookup id ≠ none →
        (construct slot id).resume s = .next ⟨{ s with trace := s.trace ++ [.result .alreadyRegistered] },
          .ended (.failed .idAlreadyRegistered)⟩)) ∧
    ∀ (α : Type) (cmd addr : Byte) (params : List Byte) (next : Tag → HostOp α),
      s.fault = none → slot < s.cfg.numEndpoints → cmd = 0x02 ∨ cmd = 0x03 → s.lookup id = some slot →
      s.cfg.maxParams < params.length → ∃ u,
        (send (.send slot id cmd addr params) next).resume s = .next ⟨u, .ended (.failed .encodeOverflow)⟩ ∧
        newOutputs s u = [.result .encodeOverflow] ∧ u.fault = some .encodeOverflow

/-- 45_host_sequences.md R93: `flash_id` fails fast on a taken id and sends nothing; otherwise LOCK=0 is awaited, the
ID write is followed by the registration of the new id with no event between them (log entry 28), its completion
and then LOCK=1 under the new id are awaited, and only then the old id is unregistered. What follows a refused
registration or a `Timeout` is not in the source (log entry 29). -/
def Obligations.FlashIdRegistersBeforeAwaiting : Prop :=
  ∀ (s : State) (slot : Nat) (old new : Byte),
    (∀ other, s.fault = none → s.lookup new = some other →
      (flashId slot old new).resume s = .next ⟨{ s with trace := s.trace ++ [.result (.registered other)] },
        .ended (.failed .idAlreadyRegistered)⟩) ∧
    (s.Accepts slot old 1 → s.lookup new = none → ∃ u next,
      Sends (flashId slot old new) s slot old 0x03 48 [0] [.result .notRegistered] [] u next ∧
      next .timeout = .ended (.unstated .timeout) ∧
      ∀ p s', s'.Accepts slot old 1 →
        (s'.lookup new ≠ none → new ≤ 0xFC → ∃ u',
          (next (.response p)).resume s' = .next ⟨u', .ended (.unstated .idAlreadyRegistered)⟩) ∧
        (s'.lookup new = none → new ≤ 0xFC → ∃ u' next',
          Sends (next (.response p)) s' slot old 0x03 5 [new] [] [.result .ok] u' next' ∧
          u'.lookup new = some slot ∧ u'.lookup old = some slot ∧
          next' .timeout = .ended (.unstated .timeout) ∧
          ∀ p' s'', s''.Accepts slot new 1 → ∃ u'' next'',
            Sends (next' (.response p')) s'' slot new 0x03 48 [1] [] [] u'' next'' ∧
            u''.lookup old = s''.lookup old ∧ next'' .timeout = .ended (.unstated .timeout) ∧
            ∀ p'' z, z.fault = none → ∃ v,
              (next'' (.response p'')).resume z = .next ⟨v, .ended (.result ())⟩ ∧
              newOutputs z v = [.result .ok] ∧ v.lookup old = none))
end

