-- ==== Sys2Proof/Laws/Codec.lean ====
section
/-! SUPPORT. The codec and the decoder: sums of bytes, the shape of a frame, which row a command byte selects, and
what `decodeWire` accepts. -/

namespace Sys2Proof

/-! ### Sums -/

theorem sum8_append (xs ys : List Byte) : sum8 (xs ++ ys) = sum8 xs + sum8 ys := by
  induction xs with
  | nil => simp [sum8]
  | cons x xs ih => simp [sum8, ih, BitVec.add_assoc]

/-- R11: `sum8` is the sum of the values modulo 256. -/
theorem sum8_toNat (xs : List Byte) : (sum8 xs).toNat = (xs.map BitVec.toNat).sum % 256 := by
  induction xs with
  | nil => rfl
  | cons x xs ih => simp [sum8, ih]

theorem checksum_add_sum8 (xs : List Byte) : sum8 xs + checksum xs = 0xFF := by
  unfold checksum
  generalize sum8 xs = x
  revert x
  decide

/-! ### Frames -/

@[simp] theorem wireFrame_length (id cmd : Byte) (data : List Byte) :
    (wireFrame id cmd data).length = data.length + 6 := by
  simp [wireFrame]

/-- The frame as the receiver meets it: preamble, id, length, body, checksum. -/
theorem wireFrame_eq (id cmd : Byte) (data : List Byte) :
    wireFrame id cmd data =
      preambleByte :: preambleByte :: id :: BitVec.ofNat 8 (data.length + 2) :: ((cmd :: data) ++
        [checksum (id :: BitVec.ofNat 8 (data.length + 2) :: cmd :: data)]) := by
  simp [wireFrame]

/-! ### Rows -/

/-- Every command byte is the one its row encodes. -/
theorem encode_wireInstr (cmd id : Byte) (data : List Byte) : encode (wireInstr cmd id data) = wireFrame id cmd data := by
  have h04 : ∀ c : Byte, ¬ c < 0x04 → c < 0x08 → cmdUnknown04 (c.setWidth 2) = c := by decide
  have h08 : ∀ c : Byte, ¬ c < 0x08 → c < 0x10 → cmdUnknown08 (c.setWidth 3) = c := by decide
  have h10 : ∀ c : Byte, ¬ c < 0x10 → c < 0x20 → cmdUnknown10 (c.setWidth 4) = c := by decide
  have h20 : ∀ c : Byte, ¬ c < 0x20 → c < 0x40 → cmdUnknown20 (c.setWidth 5) = c := by decide
  have h40 : ∀ c : Byte, ¬ c < 0x40 → c < 0x80 → cmdUnknown40 (c.setWidth 6) = c := by decide
  have h80 : ∀ c : Byte, ¬ c < 0x80 → cmdUnknown80 (c.setWidth 7) = c := by decide
  have h4 : ∀ c : Byte, c ≠ cmdResponse → c ≠ cmdResponseAlt → c ≠ cmdRead → c ≠ cmdWrite → ¬ c < 0x04 := by decide
  unfold wireInstr
  split
  next h => rw [h]; rfl
  split
  next h => rw [h]; rfl
  split
  next h => rw [h]; rfl
  split
  next h => rw [h]; rfl
  next g0 g1 g2 g3 =>
  split
  next h => simp only [encode, h04 cmd (h4 cmd g0 g1 g2 g3) h]
  next g =>
  split
  next h => simp only [encode, h08 cmd g h]
  next g =>
  split
  next h => simp only [encode, h10 cmd g h]
  next g =>
  split
  next h => simp only [encode, h20 cmd g h]
  next g =>
  split
  next h => simp only [encode, h40 cmd g h]
  next g => simp only [encode, h80 cmd g]

theorem wireInstr_wellFormed (cmd id : Byte) (data : List Byte) :
    (wireInstr cmd id data).wellFormed = frameDataFits data := by
  unfold wireInstr
  repeat' split
  all_goals rfl

/-- Each UNKNOWN_COMMAND row is selected by the command bytes it encodes. -/
theorem wireInstr_unknown04 (low : BitVec 2) (id : Byte) (data : List Byte) :
    wireInstr (cmdUnknown04 low) id data = .unknown04 low id data := by
  have h : ∀ l, cmdUnknown04 l ≠ cmdResponse ∧ cmdUnknown04 l ≠ cmdResponseAlt ∧ cmdUnknown04 l ≠ cmdRead ∧
    cmdUnknown04 l ≠ cmdWrite ∧ cmdUnknown04 l < 0x08 ∧ (cmdUnknown04 l).setWidth 2 = l := by decide
  obtain ⟨h0, h1, h2, h3, h4, h5⟩ := h low
  simp only [wireInstr, h0, h1, h2, h3, h4, h5, if_true, if_false]

theorem wireInstr_unknown08 (low : BitVec 3) (id : Byte) (data : List Byte) :
    wireInstr (cmdUnknown08 low) id data = .unknown08 low id data := by
  have h : ∀ l, cmdUnknown08 l ≠ cmdResponse ∧ cmdUnknown08 l ≠ cmdResponseAlt ∧ cmdUnknown08 l ≠ cmdRead ∧
    cmdUnknown08 l ≠ cmdWrite ∧ ¬ cmdUnknown08 l < 0x08 ∧ cmdUnknown08 l < 0x10 ∧
    (cmdUnknown08 l).setWidth 3 = l := by decide
  obtain ⟨h0, h1, h2, h3, h4, h5, h6⟩ := h low
  simp only [wireInstr, h0, h1, h2, h3, h4, h5, h6, if_true, if_false]

theorem wireInstr_unknown10 (low : BitVec 4) (id : Byte) (data : List Byte) :
    wireInstr (cmdUnknown10 low) id data = .unknown10 low id data := by
  have h : ∀ l, cmdUnknown10 l ≠ cmdResponse ∧ cmdUnknown10 l ≠ cmdResponseAlt ∧ cmdUnknown10 l ≠ cmdRead ∧
    cmdUnknown10 l ≠ cmdWrite ∧ ¬ cmdUnknown10 l < 0x08 ∧ ¬ cmdUnknown10 l < 0x10 ∧ cmdUnknown10 l < 0x20 ∧
    (cmdUnknown10 l).setWidth 4 = l := by decide
  obtain ⟨h0, h1, h2, h3, h4, h5, h6, h7⟩ := h low
  simp only [wireInstr, h0, h1, h2, h3, h4, h5, h6, h7, if_true, if_false]

theorem wireInstr_unknown20 (low : BitVec 5) (id : Byte) (data : List Byte) :
    wireInstr (cmdUnknown20 low) id data = .unknown20 low id data := by
  have h : ∀ l, cmdUnknown20 l ≠ cmdResponse ∧ cmdUnknown20 l ≠ cmdResponseAlt ∧ cmdUnknown20 l ≠ cmdRead ∧
    cmdUnknown20 l ≠ cmdWrite ∧ ¬ cmdUnknown20 l < 0x08 ∧ ¬ cmdUnknown20 l < 0x10 ∧ ¬ cmdUnknown20 l < 0x20 ∧ cmdUnknown20 l < 0x40 ∧
    (cmdUnknown20 l).setWidth 5 = l := by decide
  obtain ⟨h0, h1, h2, h3, h4, h5, h6, h7, h8⟩ := h low
  simp only [wireInstr, h0, h1, h2, h3, h4, h5, h6, h7, h8, if_true, if_false]

theorem wireInstr_unknown40 (low : BitVec 6) (id : Byte) (data : List Byte) :
    wireInstr (cmdUnknown40 low) id data = .unknown40 low id data := by
  have h : ∀ l, cmdUnknown40 l ≠ cmdResponse ∧ cmdUnknown40 l ≠ cmdResponseAlt ∧ cmdUnknown40 l ≠ cmdRead ∧
    cmdUnknown40 l ≠ cmdWrite ∧ ¬ cmdUnknown40 l < 0x08 ∧ ¬ cmdUnknown40 l < 0x10 ∧ ¬ cmdUnknown40 l < 0x20 ∧ ¬ cmdUnknown40 l < 0x40 ∧ cmdUnknown40 l < 0x80 ∧
    (cmdUnknown40 l).setWidth 6 = l := by decide
  obtain ⟨h0, h1, h2, h3, h4, h5, h6, h7, h8, h9⟩ := h low
  simp only [wireInstr, h0, h1, h2, h3, h4, h5, h6, h7, h8, h9, if_true, if_false]

theorem wireInstr_unknown80 (low : BitVec 7) (id : Byte) (data : List Byte) :
    wireInstr (cmdUnknown80 low) id data = .unknown80 low id data := by
  have h : ∀ l, cmdUnknown80 l ≠ cmdResponse ∧ cmdUnknown80 l ≠ cmdResponseAlt ∧ cmdUnknown80 l ≠ cmdRead ∧
    cmdUnknown80 l ≠ cmdWrite ∧ ¬ cmdUnknown80 l < 0x08 ∧ ¬ cmdUnknown80 l < 0x10 ∧ ¬ cmdUnknown80 l < 0x20 ∧ ¬ cmdUnknown80 l < 0x40 ∧ ¬ cmdUnknown80 l < 0x80 ∧
    (cmdUnknown80 l).setWidth 7 = l := by decide
  obtain ⟨h0, h1, h2, h3, h4, h5, h6, h7, h8, h9⟩ := h low
  simp only [wireInstr, h0, h1, h2, h3, h4, h5, h6, h7, h8, h9, if_false]

/-! ### What the frame decoder accepts -/

theorem decodeWire_wireFrame {id cmd : Byte} {data : List Byte} (h : data.length ≤ 253) :
    decodeWire (wireFrame id cmd data) = .ok (wireInstr cmd id data) := by
  have hl : (BitVec.ofNat 8 (data.length + 2)).toNat = data.length + 2 := by
    simp only [BitVec.toNat_ofNat]; omega
  rw [wireFrame_eq]
  simp only [decodeWire, ne_eq, not_true_eq_false, or_self, if_false]
  rw [if_neg (by simp [hl]), if_neg (by simp only [BitVec.lt_def, hl]; simp), if_neg]
  · rw [List.dropLast_concat]
  · rw [List.dropLast_concat, List.getLastD_concat, not_not]

/-- It accepts frames only. -/
theorem decodeWire_ok {f : List Byte} {i : Instr} (h : decodeWire f = .ok i) :
    ∃ id cmd data, data.length ≤ 253 ∧ f = wireFrame id cmd data ∧ i = wireInstr cmd id data := by
  unfold decodeWire at h
  split at h
  next p0 p1 id len rest =>
    split at h
    · cases h
    next h1 =>
    split at h
    · cases h
    next h2 =>
    split at h
    · cases h
    next h3 =>
    split at h
    · cases h
    next h4 =>
    split at h
    next cmd data hd =>
      cases h
      simp only [ne_eq, not_or, not_not] at h1 h2 h4
      have hne : rest ≠ [] := by rintro rfl; simp at hd
      have hr : rest = (cmd :: data) ++ [rest.getLastD 0] := by
        rw [← hd, List.getLastD_eq_getLast?, List.getLast?_eq_getLast_of_ne_nil hne, Option.getD_some,
          List.dropLast_append_getLast]
      have hlen : data.length + 2 = len.toNat := by
        rw [← h2, hr]; simp
      have hb := len.isLt
      refine ⟨id, cmd, data, by omega, ?_, rfl⟩
      rw [wireFrame_eq, hlen, h1.1, h1.2, BitVec.ofNat_toNat, BitVec.setWidth_eq, ← hd, h4, hd, ← hr]
    · cases h
  · cases h

/-! ### Operands -/

theorem operand16_toNat (hi lo : Byte) : (operand16 hi lo).toNat = hi.toNat * 256 + lo.toNat := by
  have := lo.isLt
  simp only [operand16, BitVec.toNat_append]
  rw [← Nat.shiftLeft_add_eq_or_of_lt this, Nat.shiftLeft_eq]

theorem hiByte_toNat (v : BitVec 16) : (hiByte v).toNat = v.toNat / 256 := by
  have := v.isLt
  simp only [hiByte, BitVec.extractLsb'_toNat, Nat.shiftRight_eq_div_pow]
  omega

theorem loByte_toNat (v : BitVec 16) : (loByte v).toNat = v.toNat % 256 := by
  simp [loByte]

@[simp] theorem operand16_bytes (v : BitVec 16) : operand16 (hiByte v) (loByte v) = v := by
  apply BitVec.eq_of_toNat_eq
  rw [operand16_toNat, hiByte_toNat, loByte_toNat]
  omega

@[simp] theorem hiByte_operand16 (hi lo : Byte) : hiByte (operand16 hi lo) = hi := by
  have := lo.isLt
  apply BitVec.eq_of_toNat_eq
  rw [hiByte_toNat, operand16_toNat]
  omega

@[simp] theorem loByte_operand16 (hi lo : Byte) : loByte (operand16 hi lo) = lo := by
  have := lo.isLt
  apply BitVec.eq_of_toNat_eq
  rw [loByte_toNat, operand16_toNat]
  omega

end Sys2Proof
end

