-- ==== Sys2Proof/Laws/State.lean ====
section
/-! SUPPORT. What each update of the state does to each field: one lemma per field and update, true by `rfl`,
so that no proof unfolds a record update. -/

namespace Sys2Proof.Machine

variable (s : State)

/-! ### `emit` -/

@[simp] theorem State.emit_cfg (o : Output) : (s.emit o).cfg = s.cfg := rfl
@[simp] theorem State.emit_fstate (o : Output) : (s.emit o).fstate = s.fstate := rfl
@[simp] theorem State.emit_rxbuf (o : Output) : (s.emit o).rxbuf = s.rxbuf := rfl
@[simp] theorem State.emit_idx (o : Output) : (s.emit o).idx = s.idx := rfl
@[simp] theorem State.emit_remaining (o : Output) : (s.emit o).remaining = s.remaining := rfl
@[simp] theorem State.emit_regtable (o : Output) : (s.emit o).regtable = s.regtable := rfl
@[simp] theorem State.emit_queue (o : Output) : (s.emit o).queue = s.queue := rfl
@[simp] theorem State.emit_nextTag (o : Output) : (s.emit o).nextTag = s.nextTag := rfl
@[simp] theorem State.emit_fault (o : Output) : (s.emit o).fault = s.fault := rfl
@[simp] theorem State.emit_inbox (o : Output) : (s.emit o).inbox = s.inbox := rfl
@[simp] theorem State.emit_trace (o : Output) : (s.emit o).trace = s.trace ++ [o] := rfl
@[simp] theorem State.emit_freeCount (o : Output) : (s.emit o).freeCount = s.freeCount := rfl

/-! ### `log` -/

@[simp] theorem State.log_cfg (k : LogKind) (a b : Byte) : (s.log k a b).cfg = s.cfg := rfl
@[simp] theorem State.log_fstate (k : LogKind) (a b : Byte) : (s.log k a b).fstate = s.fstate := rfl
@[simp] theorem State.log_rxbuf (k : LogKind) (a b : Byte) : (s.log k a b).rxbuf = s.rxbuf := rfl
@[simp] theorem State.log_idx (k : LogKind) (a b : Byte) : (s.log k a b).idx = s.idx := rfl
@[simp] theorem State.log_remaining (k : LogKind) (a b : Byte) : (s.log k a b).remaining = s.remaining := rfl
@[simp] theorem State.log_regtable (k : LogKind) (a b : Byte) : (s.log k a b).regtable = s.regtable := rfl
@[simp] theorem State.log_queue (k : LogKind) (a b : Byte) : (s.log k a b).queue = s.queue := rfl
@[simp] theorem State.log_nextTag (k : LogKind) (a b : Byte) : (s.log k a b).nextTag = s.nextTag := rfl
@[simp] theorem State.log_fault (k : LogKind) (a b : Byte) : (s.log k a b).fault = s.fault := rfl
@[simp] theorem State.log_inbox (k : LogKind) (a b : Byte) : (s.log k a b).inbox = s.inbox := rfl
@[simp] theorem State.log_trace (k : LogKind) (a b : Byte) : (s.log k a b).trace = s.trace ++ [.log k a b] := rfl
@[simp] theorem State.log_freeCount (k : LogKind) (a b : Byte) : (s.log k a b).freeCount = s.freeCount := rfl

/-! ### `raise` -/

@[simp] theorem State.raise_cfg (c : Cause) : (s.raise c).cfg = s.cfg := rfl
@[simp] theorem State.raise_fstate (c : Cause) : (s.raise c).fstate = s.fstate := rfl
@[simp] theorem State.raise_rxbuf (c : Cause) : (s.raise c).rxbuf = s.rxbuf := rfl
@[simp] theorem State.raise_idx (c : Cause) : (s.raise c).idx = s.idx := rfl
@[simp] theorem State.raise_remaining (c : Cause) : (s.raise c).remaining = s.remaining := rfl
@[simp] theorem State.raise_regtable (c : Cause) : (s.raise c).regtable = s.regtable := rfl
@[simp] theorem State.raise_queue (c : Cause) : (s.raise c).queue = s.queue := rfl
@[simp] theorem State.raise_nextTag (c : Cause) : (s.raise c).nextTag = s.nextTag := rfl
@[simp] theorem State.raise_fault (c : Cause) : (s.raise c).fault = some c := rfl
@[simp] theorem State.raise_inbox (c : Cause) : (s.raise c).inbox = s.inbox := rfl
@[simp] theorem State.raise_trace (c : Cause) : (s.raise c).trace = s.trace := rfl
@[simp] theorem State.raise_freeCount (c : Cause) : (s.raise c).freeCount = s.freeCount := rfl

/-! ### `setEntry` -/

@[simp] theorem State.setEntry_cfg (id : Byte) (e : Option Nat) : (s.setEntry id e).cfg = s.cfg := rfl
@[simp] theorem State.setEntry_fstate (id : Byte) (e : Option Nat) : (s.setEntry id e).fstate = s.fstate := rfl
@[simp] theorem State.setEntry_rxbuf (id : Byte) (e : Option Nat) : (s.setEntry id e).rxbuf = s.rxbuf := rfl
@[simp] theorem State.setEntry_idx (id : Byte) (e : Option Nat) : (s.setEntry id e).idx = s.idx := rfl
@[simp] theorem State.setEntry_remaining (id : Byte) (e : Option Nat) : (s.setEntry id e).remaining = s.remaining := rfl
@[simp] theorem State.setEntry_regtable (id : Byte) (e : Option Nat) : (s.setEntry id e).regtable = s.regtable.set id.toNat e := rfl
@[simp] theorem State.setEntry_queue (id : Byte) (e : Option Nat) : (s.setEntry id e).queue = s.queue := rfl
@[simp] theorem State.setEntry_nextTag (id : Byte) (e : Option Nat) : (s.setEntry id e).nextTag = s.nextTag := rfl
@[simp] theorem State.setEntry_fault (id : Byte) (e : Option Nat) : (s.setEntry id e).fault = s.fault := rfl
@[simp] theorem State.setEntry_inbox (id : Byte) (e : Option Nat) : (s.setEntry id e).inbox = s.inbox := rfl
@[simp] theorem State.setEntry_trace (id : Byte) (e : Option Nat) : (s.setEntry id e).trace = s.trace := rfl
@[simp] theorem State.setEntry_freeCount (id : Byte) (e : Option Nat) : (s.setEntry id e).freeCount = s.freeCount := rfl

/-! ### `setQueue` -/

@[simp] theorem State.setQueue_cfg (slot : Nat) (q : List Tag) : (s.setQueue slot q).cfg = s.cfg := rfl
@[simp] theorem State.setQueue_fstate (slot : Nat) (q : List Tag) : (s.setQueue slot q).fstate = s.fstate := rfl
@[simp] theorem State.setQueue_rxbuf (slot : Nat) (q : List Tag) : (s.setQueue slot q).rxbuf = s.rxbuf := rfl
@[simp] theorem State.setQueue_idx (slot : Nat) (q : List Tag) : (s.setQueue slot q).idx = s.idx := rfl
@[simp] theorem State.setQueue_remaining (slot : Nat) (q : List Tag) : (s.setQueue slot q).remaining = s.remaining := rfl
@[simp] theorem State.setQueue_regtable (slot : Nat) (q : List Tag) : (s.setQueue slot q).regtable = s.regtable := rfl
@[simp] theorem State.setQueue_queue (slot : Nat) (q : List Tag) : (s.setQueue slot q).queue = s.queue.set slot q := rfl
@[simp] theorem State.setQueue_nextTag (slot : Nat) (q : List Tag) : (s.setQueue slot q).nextTag = s.nextTag := rfl
@[simp] theorem State.setQueue_fault (slot : Nat) (q : List Tag) : (s.setQueue slot q).fault = s.fault := rfl
@[simp] theorem State.setQueue_inbox (slot : Nat) (q : List Tag) : (s.setQueue slot q).inbox = s.inbox := rfl
@[simp] theorem State.setQueue_trace (slot : Nat) (q : List Tag) : (s.setQueue slot q).trace = s.trace := rfl
@[simp] theorem State.setQueue_freeCount (slot : Nat) (q : List Tag) : (s.setQueue slot q).freeCount = s.freeCount := rfl

/-! ### `advanceTag` -/

@[simp] theorem State.advanceTag_cfg (t : Tag) : (s.advanceTag t).cfg = s.cfg := rfl
@[simp] theorem State.advanceTag_fstate (t : Tag) : (s.advanceTag t).fstate = s.fstate := rfl
@[simp] theorem State.advanceTag_rxbuf (t : Tag) : (s.advanceTag t).rxbuf = s.rxbuf := rfl
@[simp] theorem State.advanceTag_idx (t : Tag) : (s.advanceTag t).idx = s.idx := rfl
@[simp] theorem State.advanceTag_remaining (t : Tag) : (s.advanceTag t).remaining = s.remaining := rfl
@[simp] theorem State.advanceTag_regtable (t : Tag) : (s.advanceTag t).regtable = s.regtable := rfl
@[simp] theorem State.advanceTag_queue (t : Tag) : (s.advanceTag t).queue = s.queue := rfl
@[simp] theorem State.advanceTag_nextTag (t : Tag) : (s.advanceTag t).nextTag = t + 1 := rfl
@[simp] theorem State.advanceTag_fault (t : Tag) : (s.advanceTag t).fault = s.fault := rfl
@[simp] theorem State.advanceTag_inbox (t : Tag) : (s.advanceTag t).inbox = s.inbox := rfl
@[simp] theorem State.advanceTag_trace (t : Tag) : (s.advanceTag t).trace = s.trace := rfl
@[simp] theorem State.advanceTag_freeCount (t : Tag) : (s.advanceTag t).freeCount = s.freeCount := rfl

/-! ### `store` -/

@[simp] theorem State.store_cfg (b : Byte) : (s.store b).cfg = s.cfg := rfl
@[simp] theorem State.store_fstate (b : Byte) : (s.store b).fstate = s.fstate := rfl
@[simp] theorem State.store_rxbuf (b : Byte) : (s.store b).rxbuf = if s.idx < s.cfg.rxCapacity then s.rxbuf.set s.idx b else s.rxbuf := rfl
@[simp] theorem State.store_idx (b : Byte) : (s.store b).idx = s.idx + 1 := rfl
@[simp] theorem State.store_remaining (b : Byte) : (s.store b).remaining = s.remaining := rfl
@[simp] theorem State.store_regtable (b : Byte) : (s.store b).regtable = s.regtable := rfl
@[simp] theorem State.store_queue (b : Byte) : (s.store b).queue = s.queue := rfl
@[simp] theorem State.store_nextTag (b : Byte) : (s.store b).nextTag = s.nextTag := rfl
@[simp] theorem State.store_fault (b : Byte) : (s.store b).fault = s.fault := rfl
@[simp] theorem State.store_inbox (b : Byte) : (s.store b).inbox = s.inbox := rfl
@[simp] theorem State.store_trace (b : Byte) : (s.store b).trace = s.trace := rfl
@[simp] theorem State.store_freeCount (b : Byte) : (s.store b).freeCount = s.freeCount := rfl

/-! ### `keepPreamble` -/

@[simp] theorem State.keepPreamble_cfg (i : Nat) (b : Byte) (st : FState) : (s.keepPreamble i b st).cfg = s.cfg := rfl
@[simp] theorem State.keepPreamble_fstate (i : Nat) (b : Byte) (st : FState) : (s.keepPreamble i b st).fstate = st := rfl
@[simp] theorem State.keepPreamble_rxbuf (i : Nat) (b : Byte) (st : FState) : (s.keepPreamble i b st).rxbuf = s.rxbuf.set i b := rfl
@[simp] theorem State.keepPreamble_idx (i : Nat) (b : Byte) (st : FState) : (s.keepPreamble i b st).idx = i + 1 := rfl
@[simp] theorem State.keepPreamble_remaining (i : Nat) (b : Byte) (st : FState) : (s.keepPreamble i b st).remaining = s.remaining := rfl
@[simp] theorem State.keepPreamble_regtable (i : Nat) (b : Byte) (st : FState) : (s.keepPreamble i b st).regtable = s.regtable := rfl
@[simp] theorem State.keepPreamble_queue (i : Nat) (b : Byte) (st : FState) : (s.keepPreamble i b st).queue = s.queue := rfl
@[simp] theorem State.keepPreamble_nextTag (i : Nat) (b : Byte) (st : FState) : (s.keepPreamble i b st).nextTag = s.nextTag := rfl
@[simp] theorem State.keepPreamble_fault (i : Nat) (b : Byte) (st : FState) : (s.keepPreamble i b st).fault = s.fault := rfl
@[simp] theorem State.keepPreamble_inbox (i : Nat) (b : Byte) (st : FState) : (s.keepPreamble i b st).inbox = s.inbox := rfl
@[simp] theorem State.keepPreamble_trace (i : Nat) (b : Byte) (st : FState) : (s.keepPreamble i b st).trace = s.trace := rfl
@[simp] theorem State.keepPreamble_freeCount (i : Nat) (b : Byte) (st : FState) : (s.keepPreamble i b st).freeCount = s.freeCount := rfl

/-! ### `toSeeking` -/

@[simp] theorem State.toSeeking_cfg : (s.toSeeking).cfg = s.cfg := rfl
@[simp] theorem State.toSeeking_fstate : (s.toSeeking).fstate = .seeking := rfl
@[simp] theorem State.toSeeking_rxbuf : (s.toSeeking).rxbuf = s.rxbuf := rfl
@[simp] theorem State.toSeeking_idx : (s.toSeeking).idx = 0 := rfl
@[simp] theorem State.toSeeking_remaining : (s.toSeeking).remaining = 0 := rfl
@[simp] theorem State.toSeeking_regtable : (s.toSeeking).regtable = s.regtable := rfl
@[simp] theorem State.toSeeking_queue : (s.toSeeking).queue = s.queue := rfl
@[simp] theorem State.toSeeking_nextTag : (s.toSeeking).nextTag = s.nextTag := rfl
@[simp] theorem State.toSeeking_fault : (s.toSeeking).fault = s.fault := rfl
@[simp] theorem State.toSeeking_inbox : (s.toSeeking).inbox = s.inbox := rfl
@[simp] theorem State.toSeeking_trace : (s.toSeeking).trace = s.trace := rfl
@[simp] theorem State.toSeeking_freeCount : (s.toSeeking).freeCount = s.freeCount := rfl

/-! ### `resetBlock` -/

@[simp] theorem State.resetBlock_cfg : (s.resetBlock).cfg = s.cfg := rfl
@[simp] theorem State.resetBlock_fstate : (s.resetBlock).fstate = .seeking := rfl
@[simp] theorem State.resetBlock_rxbuf : (s.resetBlock).rxbuf = s.freeBuffer := rfl
@[simp] theorem State.resetBlock_idx : (s.resetBlock).idx = 0 := rfl
@[simp] theorem State.resetBlock_remaining : (s.resetBlock).remaining = 0 := rfl
@[simp] theorem State.resetBlock_regtable : (s.resetBlock).regtable = Vector.replicate 256 none := rfl
@[simp] theorem State.resetBlock_queue : (s.resetBlock).queue = List.replicate s.cfg.numEndpoints [] := rfl
@[simp] theorem State.resetBlock_nextTag : (s.resetBlock).nextTag = 0 := rfl
@[simp] theorem State.resetBlock_fault : (s.resetBlock).fault = none := rfl
@[simp] theorem State.resetBlock_inbox : (s.resetBlock).inbox = s.inbox := rfl
@[simp] theorem State.resetBlock_trace : (s.resetBlock).trace = s.trace ++ s.pending.map .clear := rfl
@[simp] theorem State.resetBlock_freeCount : (s.resetBlock).freeCount = s.freeCount + 1 := rfl

/-! ### `pushPacket` -/

@[simp] theorem State.pushPacket_cfg (p : List Byte) : (s.pushPacket p).cfg = s.cfg := rfl
@[simp] theorem State.pushPacket_fstate (p : List Byte) : (s.pushPacket p).fstate = s.fstate := rfl
@[simp] theorem State.pushPacket_rxbuf (p : List Byte) : (s.pushPacket p).rxbuf = s.rxbuf := rfl
@[simp] theorem State.pushPacket_idx (p : List Byte) : (s.pushPacket p).idx = s.idx := rfl
@[simp] theorem State.pushPacket_remaining (p : List Byte) : (s.pushPacket p).remaining = s.remaining := rfl
@[simp] theorem State.pushPacket_regtable (p : List Byte) : (s.pushPacket p).regtable = s.regtable := rfl
@[simp] theorem State.pushPacket_queue (p : List Byte) : (s.pushPacket p).queue = s.queue := rfl
@[simp] theorem State.pushPacket_nextTag (p : List Byte) : (s.pushPacket p).nextTag = s.nextTag := rfl
@[simp] theorem State.pushPacket_fault (p : List Byte) : (s.pushPacket p).fault = s.fault := rfl
@[simp] theorem State.pushPacket_inbox (p : List Byte) : (s.pushPacket p).inbox = p :: s.inbox := rfl
@[simp] theorem State.pushPacket_trace (p : List Byte) : (s.pushPacket p).trace = s.trace := rfl
@[simp] theorem State.pushPacket_freeCount (p : List Byte) : (s.pushPacket p).freeCount = s.freeCount := rfl

end Sys2Proof.Machine
end

