-- ==== Sys2Proof/Laws/Ops.lean ====
section
/-! SUPPORT. What each shared operation can do, said once: the fault guards, the registration table, the queues,
the free-tag search, delivery, dispatch and classification. -/

namespace Sys2Proof.Machine

variable {s t : State}

/-! ### Guards -/

theorem faulted_iff : s.faulted = true ↔ s.fault ≠ none := by
  simp [State.faulted, Option.isSome_iff_ne_none]

theorem not_faulted (h : s.fault = none) : s.faulted = false := by simp [State.faulted, h]

/-- A guarded effect that answers a next state either had its effect, or the block was faulted and nothing
changed. -/
theorem whileRunning_next {u : State} (h : whileRunning s u = .next t) :
    (s.fault = none ∧ t = u) ∨ (s.fault ≠ none ∧ t = s) := by
  unfold whileRunning at h
  cases hf : s.fault <;> simp [State.faulted, hf] at h ⊢ <;> exact h.symm

theorem whileRunning_running {u : State} (h : s.fault = none) : whileRunning s u = .next u := by
  simp [whileRunning, not_faulted h]

theorem whileRunning_faulted {u : State} (h : s.fault ≠ none) : whileRunning s u = .next s := by
  simp [whileRunning, faulted_iff.2 h]

theorem transaction_running {o : StepResult} (h : s.fault = none) : transaction s o = o := by
  simp [transaction, not_faulted h]

theorem transaction_faulted {o : StepResult} (h : s.fault ≠ none) :
    transaction s o = .next (s.emit (.result .faulted)) := by
  simp [transaction, faulted_iff.2 h, answer]

/-! ### The registration table -/

@[simp] theorem lookup_setEntry_same (id : Byte) (e : Option Nat) : (s.setEntry id e).lookup id = e := by
  simp [State.lookup, State.setEntry]

theorem lookup_setEntry_other {id id' : Byte} (e : Option Nat) (h : id' ≠ id) :
    (s.setEntry id e).lookup id' = s.lookup id' := by
  have : id.toNat ≠ id'.toNat := fun c => h (BitVec.eq_of_toNat_eq c.symm)
  simp [State.lookup, State.setEntry, this]

theorem lookup_congr (h : t.regtable = s.regtable) (id : Byte) : t.lookup id = s.lookup id := by
  simp [State.lookup, h]

theorem setEntry_lookup (id : Byte) : s.setEntry id (s.lookup id) = s := by
  simp [State.setEntry, State.lookup]

/-! ### The queues -/

theorem queueOf_eq_getElem {slot : Nat} (h : slot < s.queue.length) : s.queueOf slot = s.queue[slot] := by
  simp [State.queueOf, h]

theorem queueOf_mem {slot : Nat} {tag : Tag} (h : tag ∈ s.queueOf slot) :
    slot < s.queue.length ∧ s.queueOf slot ∈ s.queue := by
  by_cases hs : slot < s.queue.length
  · exact ⟨hs, by rw [queueOf_eq_getElem hs]; exact List.getElem_mem hs⟩
  · simp [State.queueOf, hs] at h

theorem mem_pending_of_queueOf {slot : Nat} {tag : Tag} (h : tag ∈ s.queueOf slot) : tag ∈ s.pending :=
  List.mem_flatten.2 ⟨_, (queueOf_mem h).2, h⟩

theorem mem_pending_iff {tag : Tag} : tag ∈ s.pending ↔ ∃ slot, tag ∈ s.queueOf slot := by
  constructor
  · intro h
    obtain ⟨q, hq, ht⟩ := List.mem_flatten.1 h
    obtain ⟨slot, hs, rfl⟩ := List.getElem_of_mem hq
    exact ⟨slot, by rwa [queueOf_eq_getElem hs]⟩
  · rintro ⟨slot, h⟩
    exact mem_pending_of_queueOf h

theorem queueOf_setQueue_same {slot : Nat} (h : slot < s.queue.length) (q : List Tag) :
    (s.setQueue slot q).queueOf slot = q := by
  simp [State.queueOf, State.setQueue, h]

theorem queueOf_setQueue_other {slot slot' : Nat} (h : slot' ≠ slot) (q : List Tag) :
    (s.setQueue slot q).queueOf slot' = s.queueOf slot' := by
  simp [State.queueOf, State.setQueue, List.getD_eq_getElem?_getD, Ne.symm h]

theorem queueOf_congr (h : t.queue = s.queue) (slot : Nat) : t.queueOf slot = s.queueOf slot := by
  simp [State.queueOf, h]

/-- The pending tags around one slot's queue. -/
theorem pending_split {slot : Nat} (h : slot < s.queue.length) :
    ∃ before after, s.pending = before ++ s.queueOf slot ++ after ∧
      ∀ q, (s.setQueue slot q).pending = before ++ q ++ after := by
  refine ⟨(s.queue.take slot).flatten, (s.queue.drop (slot + 1)).flatten, ?_, fun q => ?_⟩
  · rw [queueOf_eq_getElem h, State.pending]
    conv_lhs => rw [← List.take_append_drop slot s.queue, List.drop_eq_getElem_cons h]
    simp only [List.flatten_append, List.flatten_cons, List.append_assoc]
  · simp [State.pending, State.setQueue, List.set_eq_take_append_cons_drop, h]

/-- In a state with distinct tags, a tag is pending in one slot only. -/
theorem slot_unique {slot slot' : Nat} {tag : Tag} (hn : s.pending.Nodup) (h : tag ∈ s.queueOf slot)
    (h' : tag ∈ s.queueOf slot') : slot' = slot := by
  by_contra hne
  obtain ⟨hs, -⟩ := queueOf_mem h
  obtain ⟨before, after, h1, h2⟩ := pending_split hs
  have hm : tag ∈ before ++ [] ++ after := by
    rw [← h2 []]
    exact mem_pending_of_queueOf (slot := slot') (by rwa [queueOf_setQueue_other hne])
  rw [h1] at hn
  simp only [List.nodup_append, List.mem_append] at hn
  simp only [List.append_nil, List.mem_append] at hm
  rcases hm with hm | hm
  · exact hn.1.2.2 tag hm tag h rfl
  · exact hn.2.2 tag (Or.inr h) tag hm rfl

/-- What the search for an expired tag's slot answers. -/
theorem slotOf_none {tag : Tag} : s.slotOf tag = none ↔ tag ∉ s.pending := by
  simp [State.slotOf, State.pending, List.findIdx?_eq_none_iff, List.mem_flatten]

theorem slotOf_some {tag : Tag} {slot : Nat} (h : s.slotOf tag = some slot) : tag ∈ s.queueOf slot := by
  obtain ⟨hs, hc, -⟩ := List.findIdx?_eq_some_iff_getElem.1 h
  rw [queueOf_eq_getElem hs]
  simpa using hc

theorem slotOf_of_mem {tag : Tag} {slot : Nat} (hn : s.pending.Nodup) (h : tag ∈ s.queueOf slot) :
    s.slotOf tag = some slot := by
  cases hc : s.slotOf tag with
  | none =>
    exact absurd (mem_pending_of_queueOf h) (by simpa [State.slotOf, State.pending, List.mem_flatten] using hc)
  | some slot' => rw [slot_unique hn h (slotOf_some hc)]

/-! ### The free-tag search -/

/-- What the search answers: the first tag that is not in use, all before it being in use. -/
theorem firstFree_some {used : List Tag} {k : Nat} {start tag : Tag} (h : firstFree used k start = some tag) :
    ∃ n, n < k ∧ tag = start + BitVec.ofNat 16 n ∧ tag ∉ used ∧
      ∀ j, j < n → start + BitVec.ofNat 16 j ∈ used := by
  induction k generalizing start with
  | zero => simp [firstFree] at h
  | succ k ih =>
    unfold firstFree at h
    split at h
    next hm =>
      obtain ⟨n, hn, ht, hf, hj⟩ := ih h
      refine ⟨n + 1, by omega, ?_, hf, ?_⟩
      · rw [ht]; apply BitVec.eq_of_toNat_eq; simp; omega
      · intro j hjn
        cases j with
        | zero => simpa using hm
        | succ j =>
          have := hj j (by omega)
          have e : start + 1 + BitVec.ofNat 16 j = start + BitVec.ofNat 16 (j + 1) := by
            apply BitVec.eq_of_toNat_eq; simp; omega
          rwa [e] at this
    next hm =>
      cases h
      exact ⟨0, by omega, by simp, hm, by simp⟩

theorem firstFree_none {used : List Tag} {k : Nat} {start : Tag} (h : firstFree used k start = none) :
    ∀ j, j < k → start + BitVec.ofNat 16 j ∈ used := by
  induction k generalizing start with
  | zero => simp
  | succ k ih =>
    unfold firstFree at h
    split at h
    next hm =>
      intro j hj
      cases j with
      | zero => simpa using hm
      | succ j =>
        have := ih h j (by omega)
        have e : start + 1 + BitVec.ofNat 16 j = start + BitVec.ofNat 16 (j + 1) := by
          apply BitVec.eq_of_toNat_eq; simp; omega
        rwa [e] at this
    next => cases h

/-- A search over the whole cycle that finds nothing has found every tag in use. -/
theorem used_of_freeTag_none (h : s.freeTag = none) (tag : Tag) : tag ∈ s.pending := by
  have := firstFree_none h (tag - s.nextTag).toNat (by simpa [tagCount] using (tag - s.nextTag).isLt)
  have e : s.nextTag + BitVec.ofNat 16 (tag - s.nextTag).toNat = tag := by
    rw [BitVec.ofNat_toNat, BitVec.setWidth_eq, BitVec.add_comm, BitVec.sub_add_cancel]
  rwa [e] at this

/-! ### Delivery, dispatch, classification -/

/-- What a delivery can do: log that nothing is pending, or resolve the oldest request of the slot. -/
theorem deliver_cases (s : State) (slot : Nat) (payload : List Byte) (id : Byte) :
    (s.queueOf slot = [] ∧ s.deliver slot payload id = s.log .noPending (slotByte slot) id) ∨
    ∃ tag rest, s.queueOf slot = tag :: rest ∧
      s.deliver slot payload id =
        { s with
          queue := s.queue.set slot rest
          trace := s.trace ++ [.clear tag, .complete slot tag (.response payload)] } := by
  cases h : s.queueOf slot with
  | nil => left; simp [State.deliver, h]
  | cons tag rest => right; exact ⟨tag, rest, rfl, by simp [State.deliver, h, State.setQueue, State.emit]⟩

/-- What a dispatch can do: log an unknown id, or deliver to the slot the id maps to. -/
theorem dispatch_cases (s : State) (id cmd : Byte) (data : List Byte) :
    (s.lookup id = none ∧ s.dispatch id cmd data = s.log .unknownId id cmd) ∨
    ∃ slot, s.lookup id = some slot ∧ s.dispatch id cmd data = s.deliver slot (payloadOf s data) id := by
  cases h : s.lookup id with
  | none => left; simp [State.dispatch, h]
  | some slot => right; exact ⟨slot, rfl, by simp [State.dispatch, h]⟩

/-- Everything a received frame can do: nothing, one log, or the resolution of the oldest request of one slot. -/
def FrameEffect (s t : State) : Prop :=
  t = s ∨ (∃ k a b, t = s.log k a b) ∨
  ∃ slot tag rest payload, s.queueOf slot = tag :: rest ∧
    t = { s with
      queue := s.queue.set slot rest
      trace := s.trace ++ [.clear tag, .complete slot tag (.response payload)] }

theorem dispatch_effect (s : State) (id cmd : Byte) (data : List Byte) : FrameEffect s (s.dispatch id cmd data) := by
  rcases dispatch_cases s id cmd data with ⟨-, h⟩ | ⟨slot, -, h⟩
  · exact .inr (.inl ⟨_, _, _, h⟩)
  · rcases deliver_cases s slot (payloadOf s data) id with ⟨-, h'⟩ | ⟨tag, rest, hq, h'⟩
    · exact .inr (.inl ⟨_, _, _, h.trans h'⟩)
    · exact .inr (.inr ⟨slot, tag, rest, _, hq, h.trans h'⟩)

theorem classify_effect (s : State) (f : List Byte) : FrameEffect s (s.classify f) := by
  simp only [State.classify]
  split
  · exact .inl rfl
  · split
    · exact dispatch_effect ..
    · exact .inr (.inl ⟨_, _, _, rfl⟩)

/-- A received frame's effect outside the framer: the table, the tag counter, the fault, the parameters, the
inputs and the framer are untouched. -/
theorem FrameEffect.frame (h : FrameEffect s t) :
    t.cfg = s.cfg ∧ SameFramer s t ∧ t.regtable = s.regtable ∧ t.nextTag = s.nextTag ∧ t.fault = s.fault ∧
      t.inbox = s.inbox ∧ t.freeCount = s.freeCount := by
  rcases h with rfl | ⟨k, a, b, rfl⟩ | ⟨slot, tag, rest, payload, -, rfl⟩ <;> simp [SameFramer]

end Sys2Proof.Machine
end

