-- ==== Sys2Proof/Laws/Exec.lean ====
section
/-! SUPPORT. What each meaning can do, said once, and from these what any instruction can do (`exec_cases`): every
frame and every invariant over all instructions is derived from that list. -/

namespace Sys2Proof.Machine

variable {s t : State}

/-! ### Reception -/

/-- `u` differs from `s` in the framer's fields only. -/
def FramerOnly (s u : State) : Prop :=
  u = { s with fstate := u.fstate, rxbuf := u.rxbuf, idx := u.idx, remaining := u.remaining }

theorem FramerOnly.store (s : State) (b : Byte) : FramerOnly s (s.store b) := rfl

/-- The end of a frame: the effect of one received frame or one log, and then SEEKING. -/
theorem complete_effect (s : State) : ∃ v, FrameEffect s v ∧ s.complete = v.toSeeking := by
  simp only [State.complete]
  refine ⟨_, ?_, rfl⟩
  split
  · exact .inr (.inl ⟨_, _, _, rfl⟩)
  · exact .inr (.inl ⟨_, _, _, rfl⟩)
  · exact .inr (.inl ⟨_, _, _, rfl⟩)
  · exact classify_effect s _

/-- One received byte moves the framer, and where it ends a frame then has that frame's effect. -/
def Reception (s t : State) : Prop :=
  FramerOnly s t ∨ ∃ u v, FramerOnly s u ∧ FrameEffect u v ∧ t = v.toSeeking

theorem receive_effect (s : State) (b : Byte) : Reception s (s.receive b) := by
  unfold State.receive
  cases s.fstate with
  | seeking =>
    left
    cases s.cfg.syncPolicy with
    | lookback => simp only [State.seekLookback]; split <;> [rfl; split <;> rfl]
    | pairReset => simp only [State.seekPair]; split <;> [rfl; split <;> rfl]
  | header =>
    simp only [State.header]
    split
    · split
      · obtain ⟨v, hv, e⟩ := complete_effect (s.store b)
        exact .inr ⟨_, v, .store s b, hv, e⟩
      · exact .inl rfl
    · exact .inl rfl
  | body =>
    simp only [State.body]
    split
    · obtain ⟨v, hv, e⟩ := complete_effect { s.store b with remaining := (s.store b).remaining - 1 }
      exact .inr ⟨{ s.store b with remaining := (s.store b).remaining - 1 }, v, rfl, hv, e⟩
    · exact .inl rfl

/-- A received byte outside the framer: as for a received frame. -/
theorem Reception.frame (h : Reception s t) :
    t.cfg = s.cfg ∧ t.regtable = s.regtable ∧ t.nextTag = s.nextTag ∧ t.fault = s.fault ∧ t.inbox = s.inbox ∧
      t.freeCount = s.freeCount := by
  rcases h with h | ⟨u, v, hu, hv, rfl⟩
  · rw [h]; simp
  · obtain ⟨h1, -, h3, h4, h5, h6, h7⟩ := hv.frame
    rw [hu] at h1 h3 h4 h5 h6 h7
    simp [h1, h3, h4, h5, h6, h7]

/-- What a received byte does to the queues and the outputs: nothing, one log, or the resolution of the oldest
request of one slot. -/
theorem Reception.outside (h : Reception s t) :
    (t.queue = s.queue ∧ t.trace = s.trace) ∨
    (t.queue = s.queue ∧ ∃ k a b, t.trace = s.trace ++ [.log k a b]) ∨
    ∃ slot tag rest payload, s.queueOf slot = tag :: rest ∧ t.queue = s.queue.set slot rest ∧
      t.trace = s.trace ++ [.clear tag, .complete slot tag (.response payload)] := by
  rcases h with h | ⟨u, v, hu, hv, rfl⟩
  · left; rw [h]; simp
  · have hq : u.queue = s.queue := by rw [hu]
    have ht : u.trace = s.trace := by rw [hu]
    rcases hv with rfl | ⟨k, a, b, rfl⟩ | ⟨slot, tag, rest, payload, h1, rfl⟩
    · left; simp [hq, ht]
    · right; left; simp [hq, ht]
    · right; right
      exact ⟨slot, tag, rest, payload, by rw [← h1, queueOf_congr hq], by simp [hq], by simp [ht]⟩

/-! ### Transactions and expiries -/

/-- A transaction that answers `r` and does nothing else. -/
def AnswersOnly (s t : State) (r : Answer) : Prop := t = { s with trace := s.trace ++ [.result r] }

/-- An accepted request. -/
def Accepted (s t : State) (slot : Nat) (id cmd addr : Byte) (params : List Byte) (tag : Tag) : Prop :=
  slot < s.cfg.numEndpoints ∧ s.lookup id = some slot ∧ params.length ≤ s.cfg.maxParams ∧
    (s.queueOf slot).length < s.cfg.queueDepth ∧ s.freeTag = some tag ∧
    t = { s with
      queue := s.queue.set slot (s.queueOf slot ++ [tag])
      nextTag := tag + 1
      trace := s.trace ++
        [.arm tag s.cfg.timeoutMs, .tx (wireFrame id cmd (addr :: params)), .result (.okTag tag)] }

/-- The overflow fault of R98. -/
def Overflowed (s t : State) (params : List Byte) : Prop :=
  s.cfg.maxParams < params.length ∧
    t = { s with fault := some .encodeOverflow, trace := s.trace ++ [.result .encodeOverflow] }

theorem execSend_cases {slot : Nat} {id cmd addr : Byte} {params : List Byte}
    (h : execSend slot id cmd addr params s = .next t) :
    (∃ r, r.isRefusal = true ∧ AnswersOnly s t r) ∨ (s.fault = none ∧ Overflowed s t params) ∨
      (s.fault = none ∧ ∃ tag, Accepted s t slot id cmd addr params tag) := by
  unfold execSend at h
  by_cases hf : s.fault = none
  swap
  · rw [transaction_faulted hf] at h; cases h; exact .inl ⟨_, rfl, rfl⟩
  rw [transaction_running hf] at h
  split at h
  · cases h; exact .inl ⟨_, rfl, rfl⟩
  next h1 =>
  split at h
  · cases h; exact .inl ⟨_, rfl, rfl⟩
  split at h
  · cases h; exact .inl ⟨_, rfl, rfl⟩
  next h3 =>
  split at h
  next h4 => cases h; exact .inr (.inl ⟨hf, by simpa [tooManyParams] using h4, rfl⟩)
  next h4 =>
  split at h
  · cases h; exact .inl ⟨_, rfl, rfl⟩
  next h5 =>
  split at h
  · cases h
  next tag h6 =>
    cases h
    refine .inr (.inr ⟨hf, tag, by simpa [slotOutOfRange] using h1, by simpa using h3,
      by simpa [tooManyParams] using h4, by simpa using h5, h6, ?_⟩)
    simp [State.setQueue, State.advanceTag, State.emit]

theorem execRegister_cases {id : Byte} {slot : Nat} (h : execRegister id slot s = .next t) :
    (∃ r, r.isRefusal = true ∧ AnswersOnly s t r) ∨
      (s.fault = none ∧ slot < s.cfg.numEndpoints ∧ ¬ maxId < id ∧ s.lookup id = none ∧
        t = (s.setEntry id (some slot)).emit (.result .ok)) := by
  unfold execRegister at h
  by_cases hf : s.fault = none
  swap
  · rw [transaction_faulted hf] at h; cases h; exact .inl ⟨_, rfl, rfl⟩
  rw [transaction_running hf] at h
  split at h
  · cases h; exact .inl ⟨_, rfl, rfl⟩
  next h1 =>
  split at h
  · cases h; exact .inl ⟨_, rfl, rfl⟩
  next h2 =>
  split at h
  · cases h; exact .inl ⟨_, rfl, rfl⟩
  next h3 =>
    cases h
    exact .inr ⟨hf, by simpa [slotOutOfRange] using h1, by simpa [idOutOfRange] using h2, by simpa using h3, rfl⟩

theorem execUnregister_cases {id : Byte} (h : execUnregister id s = .next t) :
    (∃ r, r.isRefusal = true ∧ AnswersOnly s t r) ∨
      (s.fault = none ∧ t = (s.setEntry id none).emit (.result .ok)) := by
  unfold execUnregister at h
  by_cases hf : s.fault = none
  · rw [transaction_running hf] at h; cases h; exact .inr ⟨hf, rfl⟩
  · rw [transaction_faulted hf] at h; cases h; exact .inl ⟨_, rfl, rfl⟩

theorem execQuery_cases {id : Byte} (h : execQuery id s = .next t) : ∃ r, AnswersOnly s t r := by
  unfold execQuery at h
  by_cases hf : s.fault = none
  · rw [transaction_running hf] at h
    split at h <;> (cases h; exact ⟨_, rfl⟩)
  · rw [transaction_faulted hf] at h; cases h; exact ⟨_, rfl⟩

theorem execRawsend_cases {bytes : List Byte} (h : execRawsend bytes s = .next t) :
    (∃ r, r.isRefusal = true ∧ AnswersOnly s t r) ∨
      (s.fault = none ∧ t = { s with trace := s.trace ++ [.tx bytes, .result .ok] }) := by
  unfold execRawsend at h
  by_cases hf : s.fault = none
  · rw [transaction_running hf] at h; cases h; exact .inr ⟨hf, by simp [State.emit]⟩
  · rw [transaction_faulted hf] at h; cases h; exact .inl ⟨_, rfl, rfl⟩

/-- A request that ended by timeout. -/
def TimedOut (s t : State) (slot : Nat) (tag : Tag) : Prop :=
  tag ∈ s.queueOf slot ∧
    t = { s with
      queue := s.queue.set slot ((s.queueOf slot).erase tag)
      trace := s.trace ++ [.complete slot tag .timeout] }

theorem execExpire_cases {tag : Tag} (h : execExpire tag s = .next t) :
    t = s ∨ (s.fault = none ∧ ∃ slot, TimedOut s t slot tag) := by
  rcases whileRunning_next h with ⟨hf, rfl⟩ | ⟨-, rfl⟩
  · unfold State.expireTag
    cases hs : s.slotOf tag with
    | none => exact .inl rfl
    | some slot => exact .inr ⟨hf, slot, slotOf_some hs, rfl⟩
  · exact .inl rfl

/-! ### Any instruction -/

/-- Everything an instruction that answers a next state can have done. -/
inductive Effect (i : Instr) (s t : State) : Prop where
  | silent (hi : isTransaction i = false) (h : t = s)
  | frame (hf : s.fault = none) (hi : isFrame i = true) (h : FrameEffect s t)
      (hq : t.queue = s.queue ∨ (∃ id data, i = .response id data) ∨ ∃ id data, i = .responseAlt id data)
  | rx (b : Byte) (hi : i = .rx b) (hf : s.fault = none) (h : Reception s t)
  | timedOut (tag : Tag) (slot : Nat) (hi : i = .expire tag) (hf : s.fault = none) (h : TimedOut s t slot tag)
  | refused (r : Answer) (hi : isTransaction i = true) (h : AnswersOnly s t r)
  | bound (id : Byte) (slot : Nat) (hi : i = .register id slot) (hf : s.fault = none)
      (hs : slot < s.cfg.numEndpoints) (hid : ¬ maxId < id) (hl : s.lookup id = none)
      (h : t = (s.setEntry id (some slot)).emit (.result .ok))
  | unbound (id : Byte) (hi : i = .unregister id) (hf : s.fault = none)
      (h : t = (s.setEntry id none).emit (.result .ok))
  | sent (bytes : List Byte) (hi : i = .rawsend bytes) (hf : s.fault = none)
      (h : t = { s with trace := s.trace ++ [.tx bytes, .result .ok] })
  | overflowed (slot : Nat) (id cmd addr : Byte) (params : List Byte) (hi : i = .send slot id cmd addr params)
      (hf : s.fault = none) (h : Overflowed s t params)
  | issued (slot : Nat) (id cmd addr : Byte) (params : List Byte) (tag : Tag)
      (hi : i = .send slot id cmd addr params) (hf : s.fault = none)
      (h : Accepted s t slot id cmd addr params tag)
  | reset (hi : i = .reset) (h : t = s.resetBlock)

/-- A guarded frame effect. -/
theorem effect_of_frame {i : Instr} {u : State} (hi : isFrame i = true) (hn : isTransaction i = false)
    (hu : FrameEffect s u)
    (hq : u.queue = s.queue ∨ (∃ id data, i = .response id data) ∨ ∃ id data, i = .responseAlt id data)
    (h : whileRunning s u = .next t) : Effect i s t := by
  rcases whileRunning_next h with ⟨hf, rfl⟩ | ⟨-, rfl⟩
  · exact .frame hf hi hu hq
  · exact .silent hn rfl

theorem exec_cases {i : Instr} (h : exec i s = .next t) : Effect i s t := by
  cases i with
  | response id data =>
    exact effect_of_frame rfl rfl (dispatch_effect ..) (.inr (.inl ⟨_, _, rfl⟩)) h
  | responseAlt id data =>
    exact effect_of_frame rfl rfl (dispatch_effect ..) (.inr (.inr ⟨_, _, rfl⟩)) h
  | read => exact effect_of_frame rfl rfl (.inl rfl) (.inl rfl) h
  | write => exact effect_of_frame rfl rfl (.inl rfl) (.inl rfl) h
  | unknown04 => exact effect_of_frame rfl rfl (.inr (.inl ⟨_, _, _, rfl⟩)) (.inl rfl) h
  | unknown08 => exact effect_of_frame rfl rfl (.inr (.inl ⟨_, _, _, rfl⟩)) (.inl rfl) h
  | unknown10 => exact effect_of_frame rfl rfl (.inr (.inl ⟨_, _, _, rfl⟩)) (.inl rfl) h
  | unknown20 => exact effect_of_frame rfl rfl (.inr (.inl ⟨_, _, _, rfl⟩)) (.inl rfl) h
  | unknown40 => exact effect_of_frame rfl rfl (.inr (.inl ⟨_, _, _, rfl⟩)) (.inl rfl) h
  | unknown80 => exact effect_of_frame rfl rfl (.inr (.inl ⟨_, _, _, rfl⟩)) (.inl rfl) h
  | rx b =>
    rcases whileRunning_next h with ⟨hf, rfl⟩ | ⟨-, rfl⟩
    · exact .rx b rfl hf (receive_effect s b)
    · exact .silent rfl rfl
  | expire tag =>
    rcases execExpire_cases h with rfl | ⟨hf, slot, hs⟩
    · exact .silent rfl rfl
    · exact .timedOut tag slot rfl hf hs
  | register id slot =>
    rcases execRegister_cases h with ⟨r, -, hr⟩ | ⟨hf, h1, h2, h3, h4⟩
    · exact .refused r rfl hr
    · exact .bound id slot rfl hf h1 h2 h3 h4
  | unregister id =>
    rcases execUnregister_cases h with ⟨r, -, hr⟩ | ⟨hf, h1⟩
    · exact .refused r rfl hr
    · exact .unbound id rfl hf h1
  | query id =>
    obtain ⟨r, hr⟩ := execQuery_cases h
    exact .refused r rfl hr
  | send slot id cmd addr params =>
    rcases execSend_cases h with ⟨r, -, hr⟩ | ⟨hf, ho⟩ | ⟨hf, tag, ha⟩
    · exact .refused r rfl hr
    · exact .overflowed slot id cmd addr params rfl hf ho
    · exact .issued slot id cmd addr params tag rfl hf ha
  | rawsend bytes =>
    rcases execRawsend_cases h with ⟨r, -, hr⟩ | ⟨hf, h1⟩
    · exact .refused r rfl hr
    · exact .sent bytes rfl hf h1
  | reset => cases h; exact .reset rfl rfl

end Sys2Proof.Machine
end

