-- ==== Sys2Proof/Laws/Tags.lean ====
section
/-! SUPPORT. Tags: why a queue with room leaves a tag free (00_scope.md R9, 43_correlator.md R80), and how the
pending tags change where a tag is enqueued, taken from a queue, or dropped from the middle of one. -/

namespace Sys2Proof.Machine

variable {s : State}

/-- A list of lists, each at most `d` long, is at most `d` times as long in all. -/
theorem flatten_length_le {d : Nat} (qs : List (List Tag)) (h : ∀ q ∈ qs, q.length ≤ d) :
    qs.flatten.length ≤ qs.length * d := by
  induction qs with
  | nil => simp
  | cons q qs ih =>
    have h1 := h q (by simp)
    have h2 := ih fun x hx => h x (by simp [hx])
    simp only [List.flatten_cons, List.length_append, List.length_cons, Nat.add_mul]
    omega

/-- While one queue has room, fewer tags are pending than exist. -/
theorem pending_length_lt (hi : s.Inv) {slot : Nat} (hs : slot < s.cfg.numEndpoints)
    (hr : (s.queueOf slot).length < s.cfg.queueDepth) : s.pending.length < tagCount := by
  have hs' : slot < s.queue.length := hi.sized.2 ▸ hs
  obtain ⟨before, after, h1, h2⟩ := pending_split hs'
  have hall : ∀ q ∈ (s.setQueue slot (s.queueOf slot ++ [0])).queue, q.length ≤ s.cfg.queueDepth := by
    intro q hq
    rcases List.mem_or_eq_of_mem_set hq with hq | rfl
    · exact hi.queues.2 q hq
    · simpa using hr
  have h3 := flatten_length_le _ hall
  have h4 : (s.setQueue slot (s.queueOf slot ++ [0])).pending.length = s.pending.length + 1 := by
    rw [h2, h1]; simp; omega
  have h5 := hi.valid.2.2.2.1
  have h6 : (s.setQueue slot (s.queueOf slot ++ [0])).queue.length = s.cfg.numEndpoints := by
    simp [hi.sized.2]
  rw [h6] at h3
  unfold State.pending at h4 ⊢
  omega

/-- If every tag is pending, at least `2^TAG_WIDTH` are. -/
theorem tagCount_le_of_all_pending (h : ∀ tag : Tag, tag ∈ s.pending) : tagCount ≤ s.pending.length := by
  have hn : ((List.range tagCount).map (BitVec.ofNat 16)).Nodup := by
    rw [List.nodup_map_iff_inj_on List.nodup_range]
    intro a ha b hb e
    have := congrArg BitVec.toNat e
    simp only [List.mem_range, tagCount] at ha hb
    simpa [Nat.mod_eq_of_lt ha, Nat.mod_eq_of_lt hb] using this
  have := (List.subperm_of_subset hn fun tag _ => h tag).length_le
  simpa using this

/-- R80: a free tag exists whenever a queue has room. -/
theorem freeTag_isSome (hi : s.Inv) {slot : Nat} (hs : slot < s.cfg.numEndpoints)
    (hr : (s.queueOf slot).length < s.cfg.queueDepth) : ∃ tag, s.freeTag = some tag ∧ tag ∉ s.pending := by
  cases h : s.freeTag with
  | none =>
    have := tagCount_le_of_all_pending (used_of_freeTag_none h)
    have := pending_length_lt hi hs hr
    omega
  | some tag =>
    obtain ⟨n, -, -, hf, -⟩ := firstFree_some h
    exact ⟨tag, rfl, hf⟩

/-- Enqueuing adds its tag to the pending ones. -/
theorem pending_enqueue {slot : Nat} (hs : slot < s.queue.length) (tag : Tag) :
    (s.setQueue slot (s.queueOf slot ++ [tag])).pending.Perm (s.pending ++ [tag]) := by
  obtain ⟨before, after, h1, h2⟩ := pending_split hs
  rw [h1, h2, ← List.append_assoc]
  simp only [List.append_assoc]
  exact List.Perm.append_left _ (List.Perm.append_left _ List.perm_append_comm)

/-- Removing a tag from its slot's queue removes it from the pending ones. -/
theorem pending_erase {slot : Nat} {tag : Tag} (h : tag ∈ s.queueOf slot) :
    (tag :: (s.setQueue slot ((s.queueOf slot).erase tag)).pending).Perm s.pending := by
  obtain ⟨before, after, h1, h2⟩ := pending_split (queueOf_mem h).1
  rw [h1, h2]
  have e : tag :: (before ++ (s.queueOf slot).erase tag ++ after) =
      [tag] ++ before ++ ((s.queueOf slot).erase tag ++ after) := by simp
  rw [e]
  refine (List.perm_append_comm.append_right _).trans ?_
  simp only [List.append_assoc, List.singleton_append]
  refine List.Perm.append_left _ ?_
  rw [← List.cons_append]
  exact (List.perm_cons_erase h).symm.append_right _

/-- Taking the oldest tag of a slot is removing it. -/
theorem erase_oldest {slot : Nat} {tag : Tag} {rest : List Tag} (h : s.queueOf slot = tag :: rest) :
    (s.queueOf slot).erase tag = rest := by
  simp [h]

theorem pending_congr {t : State} (h : t.queue = s.queue) : t.pending = s.pending := by
  simp [State.pending, h]

/-! ### Timers -/

theorem armedTimers_append (outs more : List Output) :
    armedTimers (outs ++ more) = more.foldl timerEffect (armedTimers outs) := by
  simp [armedTimers]

/-- Clearing every timer of a list leaves none of them. -/
theorem clear_all {armed tags : List Tag} (h : armed.Perm tags) :
    (tags.map Output.clear).foldl timerEffect armed = [] := by
  induction tags generalizing armed with
  | nil => simpa using h
  | cons tag tags ih =>
    simp only [List.map_cons, List.foldl_cons, timerEffect]
    exact ih (by simpa using h.erase tag)

end Sys2Proof.Machine
end

