-- ==== Sys2Proof/Laws/Endpoint.lean ====
section
/-! SUPPORT. Host operations: what a run of the host does at each kind of step, what an output does to an await, and
what the transactions of an operation answer. -/

namespace Sys2Proof.Machine

variable {α : Type} {s u : State}

/-! ### A run of the host -/

@[simp] theorem resume_ended (e : Ending α) (s : State) : (HostOp.ended e).resume s = .next ⟨s, .ended e⟩ := rfl

@[simp] theorem resume_await (t : Tag) (next : Resolution → HostOp α) (s : State) :
    (HostOp.await t next).resume s = .next ⟨s, .await t next⟩ := rfl

@[simp] theorem resume_succeed (s : State) : succeed.resume s = .next ⟨s, .ended (.result ())⟩ := rfl

/-- A transaction whose last output is `r` goes on with `r`. -/
theorem resume_transact {i : Instr} {next : Answer → HostOp α} {outs : List Output} {r : Answer}
    (h : exec i s = .next u) (ht : u.trace = s.trace ++ (outs ++ [.result r])) :
    (HostOp.transact i next).resume s = (next r).resume u := by
  simp [HostOp.resume, h, newOutputs, ht, answerOf]

/-! ### An output during an await -/

@[simp] theorem observe_ended (e : Ending α) (o : Output) : (HostOp.ended e).observe o = .ended e := rfl

@[simp] theorem observe_transact (i : Instr) (next : Answer → HostOp α) (o : Output) :
    (HostOp.transact i next).observe o = .transact i next := rfl

@[simp] theorem observe_complete (t t' : Tag) (next : Resolution → HostOp α) (slot : Nat) (r : Resolution) :
    (HostOp.await t next).observe (.complete slot t' r) = if t' = t then next r else .await t next := rfl

theorem observe_other {t : Tag} {next : Resolution → HostOp α} {o : Output} (h : ∀ slot r, o ≠ .complete slot t r) :
    (HostOp.await t next).observe o = .await t next := by
  cases o with
  | complete slot t' r => rw [observe_complete, if_neg]; rintro rfl; exact h slot r rfl
  | _ => rfl

theorem foldl_observe_other {t : Tag} {next : Resolution → HostOp α} {outs : List Output}
    (h : ∀ slot r, Output.complete slot t r ∉ outs) :
    outs.foldl HostOp.observe (.await t next) = .await t next := by
  induction outs with
  | nil => rfl
  | cons o outs ih =>
    rw [List.foldl_cons, observe_other fun slot r e => h slot r (by simp [e])]
    exact ih fun slot r m => h slot r (by simp [m])

theorem event_next {c : Session α} {i : Instr} (h : exec i c.block = .next u) :
    c.event i = .next ⟨u, (newOutputs c.block u).foldl HostOp.observe c.op⟩ := by
  simp [Session.event, h]

/-- A `Complete` is the last output of its step, behind the `Clear` of its timer at most. -/
theorem complete_is_last {i : Instr} {s u : State} {slot : Nat} {t : Tag} {r : Resolution} (h : exec i s = .next u)
    (hm : Output.complete slot t r ∈ newOutputs s u) :
    newOutputs s u = [.complete slot t r] ∨ newOutputs s u = [.clear t, .complete slot t r] := by
  have key : ∀ {slot' tag payload}, u.trace = s.trace ++ [.clear tag, .complete slot' tag (.response payload)] →
      newOutputs s u = [.clear t, .complete slot t r] := by
    intro slot' tag payload h
    have e : newOutputs s u = [.clear tag, .complete slot' tag (.response payload)] := by simp [newOutputs, h]
    rw [e] at hm ⊢
    simp only [List.mem_cons, Output.complete.injEq, List.not_mem_nil, reduceCtorEq, or_false, false_or] at hm
    obtain ⟨rfl, rfl, rfl⟩ := hm
    rfl
  cases exec_cases h with
  | frame _ _ h _ =>
    rcases h with rfl | ⟨k, a, b, rfl⟩ | ⟨slot', tag, rest, payload, hs, rfl⟩
    · simp [newOutputs] at hm
    · simp [newOutputs] at hm
    · exact .inr (key rfl)
  | rx b _ _ h =>
    rcases h.outside with ⟨-, h⟩ | ⟨-, _, _, _, h⟩ | ⟨_, _, _, _, h1, h2, h3⟩
    · simp [newOutputs, h] at hm
    · simp [newOutputs, h] at hm
    · exact .inr (key h3)
  | timedOut tag slot' _ _ h =>
    obtain ⟨-, rfl⟩ := h
    simp only [newOutputs, List.drop_left, List.mem_cons, List.not_mem_nil, or_false] at hm ⊢
    exact .inl (by rw [hm])
  | silent _ h => subst h; simp [newOutputs] at hm
  | refused r' _ h => cases h; simp [newOutputs] at hm
  | overflowed _ _ _ _ _ _ _ h => obtain ⟨-, rfl⟩ := h; simp [newOutputs] at hm
  | issued _ _ _ _ _ _ hi _ h => obtain ⟨-, -, -, -, -, rfl⟩ := h; simp [newOutputs] at hm
  | bound _ _ _ _ _ _ _ h => subst h; simp [newOutputs] at hm
  | unbound _ _ _ h => subst h; simp [newOutputs] at hm
  | sent _ _ _ h => subst h; simp [newOutputs] at hm
  | reset _ h => subst h; simp [newOutputs] at hm

/-! ### The transactions of an operation -/

/-- What a `Send` that the block accepts does to the state: the request is issued under the free tag. -/
structure Issued (s : State) (slot : Nat) (id cmd addr : Byte) (params : List Byte) (t : Tag) (u : State) : Prop where
  tag : s.freeTag = some t
  answered : exec (.send slot id cmd addr params) s = .next u
  trace : u.trace = s.trace ++ sentOutputs s t (wireFrame id cmd (addr :: params))
  queue : u.queueOf slot = s.queueOf slot ++ [t]
  table : u.regtable = s.regtable
  fault : u.fault = none
  cfg : u.cfg = s.cfg

theorem Issued.newOutputs_eq {slot : Nat} {id cmd addr : Byte} {params : List Byte} {t : Tag}
    (h : Issued s slot id cmd addr params t u) :
    newOutputs s u = sentOutputs s t (wireFrame id cmd (addr :: params)) := by
  simp [newOutputs, h.trace]

theorem issued_of_accepts {slot : Nat} {id cmd addr : Byte} {params : List Byte} (h : s.Accepts slot id params.length)
    (hc : isSendable cmd = true) : ∃ t u, Issued s slot id cmd addr params t u := by
  obtain ⟨t, ht, -⟩ := freeTag_isSome h.inv h.slot_exists h.room
  have hl : slot < s.queue.length := h.inv.sized.2 ▸ h.slot_exists
  have he : exec (.send slot id cmd addr params) s = s.issue t slot id cmd addr params := by
    simp [exec, execSend, transaction_running h.running, slotOutOfRange, tooManyParams, hc, ht, h.registered,
      Nat.not_le.2 h.slot_exists, Nat.not_le.2 h.room, Nat.not_lt.2 h.fits]
  exact ⟨t, _, ht, he, by simp [sentOutputs, State.advanceTag], queueOf_setQueue_same hl _, rfl, h.running, rfl⟩

/-- The frame of a request that fits. -/
theorem encodeFrame_ok {n : Nat} {id cmd addr : Byte} {params : List Byte} (h : params.length ≤ n) :
    encodeFrame n id cmd addr params = .ok (wireFrame id cmd (addr :: params)) := if_neg (Nat.not_lt.2 h)

/-- After an accepted `Send` the host goes on with the tag. -/
theorem resume_send {slot : Nat} {id cmd addr : Byte} {params : List Byte} {t : Tag} {next : Tag → HostOp α}
    (h : Issued s slot id cmd addr params t u) :
    (send (.send slot id cmd addr params) next).resume s = (next t).resume u :=
  resume_transact (outs := [.arm t s.cfg.timeoutMs, .tx (wireFrame id cmd (addr :: params))]) h.answered h.trace

/-- A request that the block accepts is sent, and its tag is awaited; the registration table is unchanged. -/
theorem sends_request {slot : Nat} {id cmd addr : Byte} {params : List Byte} {onTimeout : Ending α}
    {next : List Byte → HostOp α} (h : s.Accepts slot id params.length) (hc : isSendable cmd = true) :
    ∃ u, u.regtable = s.regtable ∧
      Sends (request (.send slot id cmd addr params) onTimeout next) s slot id cmd addr params [] [] u
        (fun | .response p => next p | .timeout => .ended onTimeout) := by
  obtain ⟨t, u, hu⟩ := issued_of_accepts (addr := addr) h hc
  exact ⟨u, hu.table, t, _, hu.tag, encodeFrame_ok h.fits, by rw [request, resume_send hu]; rfl,
    by simp [hu.newOutputs_eq], hu.queue⟩

theorem resume_checkFree_free {id : Byte} {next : HostOp α} (hf : s.fault = none) (hl : s.lookup id = none) :
    (checkFree id next).resume s = next.resume (s.emit (.result .notRegistered)) := by
  have h : exec (.query id) s = .next (s.emit (.result .notRegistered)) := by
    simp [exec, execQuery, transaction_running hf, hl, answer]
  rw [checkFree, resume_transact (outs := []) h rfl]

theorem resume_checkFree_taken {id : Byte} {slot : Nat} {next : HostOp α} (hf : s.fault = none)
    (hl : s.lookup id = some slot) : (checkFree id next).resume s =
      .next ⟨s.emit (.result (.registered slot)), .ended (.failed .idAlreadyRegistered)⟩ := by
  have h : exec (.query id) s = .next (s.emit (.result (.registered slot))) := by
    simp [exec, execQuery, transaction_running hf, hl, answer]
  rw [checkFree, resume_transact (outs := []) h rfl, resume_ended]

theorem resume_registerId_free {id : Byte} {slot : Nat} {onTaken : Ending α} {next : HostOp α} (hf : s.fault = none)
    (hs : slot < s.cfg.numEndpoints) (hi : id ≤ 0xFC) (hl : s.lookup id = none) :
    (registerId id slot onTaken next).resume s = next.resume ((s.setEntry id (some slot)).emit (.result .ok)) := by
  have h : exec (.register id slot) s = .next ((s.setEntry id (some slot)).emit (.result .ok)) := by
    simp [exec, execRegister, transaction_running hf, slotOutOfRange, idOutOfRange, Nat.not_le.2 hs,
      (BitVec.not_lt.2 hi : ¬ maxId < id), hl, answer]
  rw [registerId, resume_transact (outs := []) h rfl]

theorem resume_registerId_taken {id : Byte} {slot : Nat} {onTaken : Ending α} {next : HostOp α} (hf : s.fault = none)
    (hs : slot < s.cfg.numEndpoints) (hi : id ≤ 0xFC) (hl : s.lookup id ≠ none) :
    (registerId id slot onTaken next).resume s = .next ⟨s.emit (.result .alreadyRegistered), .ended onTaken⟩ := by
  have h : exec (.register id slot) s = .next (s.emit (.result .alreadyRegistered)) := by
    simp [exec, execRegister, transaction_running hf, slotOutOfRange, idOutOfRange, Nat.not_le.2 hs,
      (BitVec.not_lt.2 hi : ¬ maxId < id), Option.isSome_iff_ne_none.2 hl, answer]
  rw [registerId, resume_transact (outs := []) h rfl, resume_ended]

theorem resume_unregisterId {id : Byte} {next : HostOp α} (hf : s.fault = none) :
    (unregisterId id next).resume s = next.resume ((s.setEntry id none).emit (.result .ok)) := by
  have h : exec (.unregister id) s = .next ((s.setEntry id none).emit (.result .ok)) := by
    simp [exec, execUnregister, transaction_running hf, answer]
  rw [unregisterId, resume_transact (outs := []) h rfl]

end Sys2Proof.Machine
end

