-- ==== Sys2Proof/Laws/Float64.lean ====
section
/-! SUPPORT. Rounding to f64: a significand of 53 bits, the error of at most half of its last bit, the sign, and the
numbers that need no rounding. -/

namespace Sys2Proof.Machine

/-! ### Powers of two -/

theorem pow2_eq_zpow (e : Int) : pow2 e = (2 : Rat) ^ e := by
  cases e with
  | ofNat n => simp [pow2]
  | negSucc n => simp [pow2, zpow_negSucc]

theorem pow2_pos (e : Int) : 0 < pow2 e := by rw [pow2_eq_zpow]; positivity

/-! ### The nearest integer -/

theorem roundHalfEven_error (q : Rat) : |(roundHalfEven q : Rat) - q| ≤ 1 / 2 := by
  have h0 := Int.floor_le q
  have h1 := Int.lt_floor_add_one q
  have hf : q.floor = ⌊q⌋ := rfl
  simp only [roundHalfEven, hf]
  rw [abs_le]
  split_ifs <;> push_cast <;> constructor <;> linarith

@[simp] theorem roundHalfEven_intCast (n : Int) : roundHalfEven n = n := by
  simp [roundHalfEven, Rat.floor_intCast]

theorem roundHalfEven_nonneg {q : Rat} (h : 0 ≤ q) : 0 ≤ roundHalfEven q := by
  have h1 := (abs_le.1 (roundHalfEven_error q)).1
  have h2 : (-1 : Rat) < (roundHalfEven q : Rat) := by linarith
  have : (-1 : Int) < roundHalfEven q := by exact_mod_cast h2
  omega

theorem roundHalfEven_nonpos {q : Rat} (h : q ≤ 0) : roundHalfEven q ≤ 0 := by
  have h1 := (abs_le.1 (roundHalfEven_error q)).2
  have h2 : (roundHalfEven q : Rat) < 1 := by linarith
  have : roundHalfEven q < (1 : Int) := by exact_mod_cast h2
  omega

/-! ### The significand -/

/-- Every number but 0 has a significand of 53 bits above its last bit. -/
theorem lastBit_spec {q : Rat} (h : q ≠ 0) :
    2 ^ 52 * pow2 (lastBit q) ≤ |q| ∧ |q| < 2 ^ 53 * pow2 (lastBit q) := by
  have hn : q.num.natAbs ≠ 0 := by simpa using h
  have hd : (0 : Rat) < q.den := by exact_mod_cast q.den_pos
  have hq : |q| * q.den = q.num.natAbs := by
    have : |q| * |(q.den : Rat)| = |(q.num : Rat)| := by rw [← abs_mul, Rat.mul_den_eq_num]
    rw [abs_of_pos hd] at this
    rw [this, Nat.cast_natAbs, Int.cast_abs]
  have a1 : (2 : Rat) ^ q.num.natAbs.log2 ≤ q.num.natAbs := by exact_mod_cast Nat.log2_self_le hn
  have a2 : (q.num.natAbs : Rat) < 2 ^ (q.num.natAbs.log2 + 1) := by exact_mod_cast Nat.lt_log2_self
  have b1 : (2 : Rat) ^ q.den.log2 ≤ q.den := by exact_mod_cast Nat.log2_self_le q.den_nz
  have b2 : (q.den : Rat) < 2 ^ (q.den.log2 + 1) := by exact_mod_cast Nat.lt_log2_self
  generalize hw : q.num.natAbs.log2 = a at a1 a2
  generalize hv : q.den.log2 = b at b1 b2
  have hp : pow2 ((a : Int) - b - 52) * 2 ^ 52 * 2 ^ b = 2 ^ a := by
    rw [pow2_eq_zpow, zpow_sub₀ two_ne_zero, zpow_sub₀ two_ne_zero]
    simp only [zpow_natCast]
    field_simp
  have hpos := pow2_pos ((a : Int) - b - 52)
  have hhalf : pow2 ((a : Int) - b - 52 - 1) = pow2 ((a : Int) - b - 52) / 2 := by
    rw [pow2_eq_zpow, pow2_eq_zpow, zpow_sub_one₀ two_ne_zero]; ring
  have key : ∀ x : Rat, |q| < x ↔ (q.num.natAbs : Rat) < x * q.den := fun x => by
    rw [← hq]; exact (mul_lt_mul_iff_left₀ hd).symm
  have key' : ∀ x : Rat, x ≤ |q| ↔ x * q.den ≤ (q.num.natAbs : Rat) := fun x => by
    rw [← hq]; exact (mul_le_mul_iff_left₀ hd).symm
  have hl : lastBit q = if (q.num.natAbs : Rat) < 2 ^ 52 * (pow2 ((a : Int) - b - 52) * q.den) then
      (a : Int) - b - 52 - 1 else (a : Int) - b - 52 := by
    simp only [lastBit, hw, hv]
  rw [hl]
  generalize hP : pow2 ((a : Int) - b - 52) = P at *
  rw [pow_succ] at a2 b2
  have hPb : P * 2 ^ 52 * q.den < 2 ^ a * 2 := by
    rw [← hp]
    have := mul_lt_mul_of_pos_left b2 (show 0 < P * 2 ^ 52 by positivity)
    linarith
  have hPb' : 2 ^ a ≤ P * 2 ^ 52 * q.den := by
    rw [← hp]
    exact mul_le_mul_of_nonneg_left b1 (by positivity)
  split
  next hc =>
    rw [hhalf, key, key']
    constructor <;> linarith
  next hc =>
    rw [hP, key, key']
    constructor <;> linarith

/-! ### Rounding -/

@[simp] theorem f64_zero : f64 0 = 0 := by simp [f64]

theorem f64_of_ne_zero {q : Rat} (h : q ≠ 0) :
    f64 q = roundHalfEven (q / pow2 (lastBit q)) * pow2 (lastBit q) := if_neg h

/-- The error is at most half of the last of 53 bits. -/
theorem f64_error (q : Rat) : |f64 q - q| ≤ |q| / 2 ^ 53 := by
  by_cases h : q = 0
  · simp [h]
  have hp := pow2_pos (lastBit q)
  have hs := (lastBit_spec h).1
  have he := roundHalfEven_error (q / pow2 (lastBit q))
  have e : f64 q - q = (roundHalfEven (q / pow2 (lastBit q)) - q / pow2 (lastBit q)) * pow2 (lastBit q) := by
    rw [f64_of_ne_zero h, sub_mul, div_mul_cancel₀ _ hp.ne']
  rw [e, abs_mul, abs_of_pos hp]
  have := mul_le_mul_of_nonneg_right he hp.le
  linarith

theorem f64_nonneg {q : Rat} (h : 0 ≤ q) : 0 ≤ f64 q := by
  by_cases h0 : q = 0
  · simp [h0]
  rw [f64_of_ne_zero h0]
  have hp := pow2_pos (lastBit q)
  have : (0 : Rat) ≤ roundHalfEven (q / pow2 (lastBit q)) := by
    exact_mod_cast roundHalfEven_nonneg (div_nonneg h hp.le)
  positivity

theorem f64_nonpos {q : Rat} (h : q ≤ 0) : f64 q ≤ 0 := by
  by_cases h0 : q = 0
  · simp [h0]
  rw [f64_of_ne_zero h0]
  have hp := pow2_pos (lastBit q)
  have : (roundHalfEven (q / pow2 (lastBit q)) : Rat) ≤ 0 := by
    exact_mod_cast roundHalfEven_nonpos (div_nonpos_of_nonpos_of_nonneg h hp.le)
  exact mul_nonpos_of_nonpos_of_nonneg this hp.le

/-- A number with a significand of 53 bits is not rounded. -/
theorem f64_exact {n e : Int} (h : n.natAbs < 2 ^ 53) : f64 (n * pow2 e) = n * pow2 e := by
  by_cases h0 : (n : Rat) * pow2 e = 0
  · rw [h0, f64_zero]
  have hs := (lastBit_spec h0).1
  rw [f64_of_ne_zero h0]
  generalize lastBit (n * pow2 e) = l at hs
  have hl := pow2_pos l
  have hn : |(n : Rat)| < 2 ^ 53 := by
    rw [← Int.cast_abs, Int.abs_eq_natAbs]
    exact_mod_cast h
  have hle : l ≤ e := by
    by_contra hc
    have hx : pow2 e ≤ pow2 l / 2 := by
      rw [pow2_eq_zpow, pow2_eq_zpow]
      have : (2 : Rat) ^ (l - 1) = 2 ^ l / 2 := by rw [zpow_sub_one₀ two_ne_zero]; ring
      rw [← this]
      exact zpow_le_zpow_right₀ (by norm_num) (by omega)
    rw [abs_mul, abs_of_pos (pow2_pos e)] at hs
    have := mul_le_mul_of_nonneg_left hx (abs_nonneg (n : Rat))
    have := mul_lt_mul_of_pos_right hn hl
    linarith
  obtain ⟨k, rfl⟩ : ∃ k : Nat, e = l + k := ⟨(e - l).toNat, by omega⟩
  have hk : (n : Rat) * pow2 (l + k) = ((n * 2 ^ k : Int) : Rat) * pow2 l := by
    rw [pow2_eq_zpow, pow2_eq_zpow, zpow_add₀ two_ne_zero]
    push_cast
    simp only [zpow_natCast]
    ring
  rw [hk, mul_div_cancel_right₀ _ hl.ne', roundHalfEven_intCast]

theorem f64_intCast {n : Int} (h : n.natAbs < 2 ^ 53) : f64 n = n := by
  simpa [pow2] using f64_exact (e := 0) h

end Sys2Proof.Machine
end

