-- ==== Sys2Proof/Laws/Framer.lean ====
section
/-! SUPPORT. The framer: what the receive buffer holds after a byte is stored, one lemma per transition of
41_framer.md, and what a run of bytes does. -/

namespace Sys2Proof.Machine

variable {s t : State}

/-! ### The buffer -/

theorem byteAt_congr (h : t.rxbuf = s.rxbuf) (i : Nat) : t.byteAt i = s.byteAt i := by
  simp [State.byteAt, h]

/-- Storing a byte leaves the bytes before it. -/
theorem byteAt_store {i : Nat} (b : Byte) (h : i ≠ s.idx) : (s.store b).byteAt i = s.byteAt i := by
  by_cases hc : s.idx < s.cfg.rxCapacity <;>
    simp [State.byteAt, hc, List.getD_eq_getElem?_getD, Ne.symm h]

/-- A stored byte that fits is read back. -/
theorem byteAt_store_same (b : Byte) (hc : s.idx < s.cfg.rxCapacity) (hl : s.rxbuf.length = s.cfg.rxCapacity) :
    (s.store b).byteAt s.idx = b := by
  have : s.idx < s.rxbuf.length := hl ▸ hc
  simp [State.byteAt, hc, this]

theorem length_store (b : Byte) : (s.store b).rxbuf.length = s.rxbuf.length := by
  by_cases hc : s.idx < s.cfg.rxCapacity <;> simp [hc]

/-- The first `idx` bytes after storing one that fits. -/
theorem take_store (b : Byte) (hc : s.idx < s.cfg.rxCapacity) (hl : s.rxbuf.length = s.cfg.rxCapacity) :
    (s.store b).rxbuf.take (s.store b).idx = s.rxbuf.take s.idx ++ [b] := by
  have : s.idx < s.rxbuf.length := hl ▸ hc
  simp [hc, List.take_add_one, List.take_set_of_le, this]

/-! ### Frame effects and the framer -/

theorem dispatch_toSeeking (s : State) (id cmd : Byte) (data : List Byte) :
    (s.dispatch id cmd data).toSeeking = s.toSeeking.dispatch id cmd data := by
  have hl : s.toSeeking.lookup id = s.lookup id := rfl
  have hq : ∀ slot, s.toSeeking.queueOf slot = s.queueOf slot := fun _ => rfl
  cases h : s.lookup id with
  | none => simp only [State.dispatch, hl, h]; rfl
  | some slot =>
    cases h' : s.queueOf slot <;> simp only [State.dispatch, State.deliver, hl, h, hq, h'] <;> rfl

/-- A received frame's effect does not depend on the framer's state, and does not touch it. -/
theorem classify_toSeeking (s : State) (f : List Byte) : (s.classify f).toSeeking = s.toSeeking.classify f := by
  simp only [State.classify]
  split
  · rfl
  split
  · exact dispatch_toSeeking ..
  · rfl

/-! ### Completion, test by test (R67) -/

theorem complete_of_verdict {v : Verdict} (h : s.verdict = v) :
    s.complete = (match v with
      | .rxOverflow => s.log .rxOverflow (s.byteAt 2) (s.byteAt 3)
      | .lengthError => s.log .lengthError (s.byteAt 2) (s.byteAt 3)
      | .checksumMismatch => s.log .checksumMismatch (s.byteAt 2) (s.byteAt 3)
      | .accepted => s.classify (slice s.rxbuf 0 s.idx)).toSeeking := by
  subst h; rfl

theorem complete_overflow (h : s.cfg.rxCapacity < s.idx) :
    s.complete = s.toSeeking.log .rxOverflow (s.byteAt 2) (s.byteAt 3) :=
  complete_of_verdict (v := .rxOverflow) (if_pos h)

theorem complete_lengthError (h1 : s.idx ≤ s.cfg.rxCapacity) (h2 : s.byteAt 3 < 2) :
    s.complete = s.toSeeking.log .lengthError (s.byteAt 2) (s.byteAt 3) :=
  complete_of_verdict (v := .lengthError) ((if_neg (Nat.not_lt.2 h1)).trans (if_pos h2))

theorem complete_checksumMismatch (h1 : s.idx ≤ s.cfg.rxCapacity) (h2 : ¬ s.byteAt 3 < 2)
    (h3 : checksum (slice s.rxbuf 2 (s.idx - 1)) ≠ s.byteAt (s.idx - 1)) :
    s.complete = s.toSeeking.log .checksumMismatch (s.byteAt 2) (s.byteAt 3) :=
  complete_of_verdict (v := .checksumMismatch)
    ((if_neg (Nat.not_lt.2 h1)).trans ((if_neg h2).trans (if_pos h3)))

theorem complete_accepted (h1 : s.idx ≤ s.cfg.rxCapacity) (h2 : ¬ s.byteAt 3 < 2)
    (h3 : checksum (slice s.rxbuf 2 (s.idx - 1)) = s.byteAt (s.idx - 1)) :
    s.complete = s.toSeeking.classify (s.rxbuf.take s.idx) := by
  rw [complete_of_verdict (v := .accepted)
    ((if_neg (Nat.not_lt.2 h1)).trans ((if_neg h2).trans (if_neg (not_not.2 h3))))]
  simp [slice, classify_toSeeking]

@[simp] theorem complete_fstate : s.complete.fstate = .seeking := by simp [State.complete]
@[simp] theorem complete_idx : s.complete.idx = 0 := by simp [State.complete]
@[simp] theorem complete_remaining : s.complete.remaining = 0 := by simp [State.complete]

theorem complete_idle : s.complete.Idle := ⟨complete_fstate, complete_idx⟩

theorem complete_rxbuf : s.complete.rxbuf = s.rxbuf := by
  obtain ⟨v, hv, h⟩ := complete_effect s
  rw [h]; exact hv.frame.2.1.2.1

/-! ### One byte, by the state of the framer (R61) -/

theorem receive_lookback (b : Byte) (hs : s.fstate = .seeking) (hp : s.cfg.syncPolicy = .lookback) :
    s.receive b = s.seekLookback b := by simp [State.receive, hs, hp]

theorem receive_pairReset (b : Byte) (hs : s.fstate = .seeking) (hp : s.cfg.syncPolicy = .pairReset) :
    s.receive b = s.seekPair b := by simp [State.receive, hs, hp]

theorem receive_header (b : Byte) (hs : s.fstate = .header) : s.receive b = s.header b := by
  simp [State.receive, hs]

theorem receive_body (b : Byte) (hs : s.fstate = .body) : s.receive b = s.body b := by
  simp [State.receive, hs]

theorem seekLookback_hit (h : s.idx = 1) : s.seekLookback preambleByte = s.keepPreamble 1 preambleByte .header :=
  if_pos ⟨rfl, by simp [State.lookbackSet, h]⟩

theorem seekLookback_lone (h : s.idx ≠ 1) :
    s.seekLookback preambleByte = s.keepPreamble 0 preambleByte .seeking :=
  (if_neg (by simp [State.lookbackSet, h])).trans (if_pos rfl)

theorem seekLookback_other {b : Byte} (h : b ≠ preambleByte) : s.seekLookback b = { s with idx := 0 } :=
  (if_neg fun c => h c.1).trans (if_neg h)

theorem seekPair_first (b : Byte) (h : s.idx = 0) : s.seekPair b = s.keepPreamble 0 b .seeking := if_pos h

theorem seekPair_hit (h : s.idx ≠ 0) (h0 : s.byteAt 0 = preambleByte) :
    s.seekPair preambleByte = s.keepPreamble 1 preambleByte .header :=
  (if_neg h).trans (if_pos ⟨h0, rfl⟩)

theorem seekPair_miss {b : Byte} (h : s.idx ≠ 0) (hm : ¬ (s.byteAt 0 = preambleByte ∧ b = preambleByte)) :
    s.seekPair b = { s with idx := 0 } :=
  (if_neg h).trans (if_neg hm)

theorem header_id (b : Byte) (h : s.idx ≠ 3) : s.header b = s.store b :=
  if_neg fun c => h (by simpa using c)

theorem header_length (b : Byte) (h : s.idx = 3) (hb : b ≠ 0) :
    s.header b = { s.store b with remaining := b.toNat, fstate := .body } :=
  (if_pos (by simp [h])).trans (if_neg hb)

theorem header_zero (h : s.idx = 3) : s.header 0 = (s.store 0).complete :=
  (if_pos (by simp [h])).trans (if_pos rfl)

theorem body_more (b : Byte) (h : 2 ≤ s.remaining) :
    s.body b = { s.store b with remaining := s.remaining - 1 } :=
  if_neg (show ¬ s.remaining - 1 = 0 by omega)

/-- The state in which the last byte `b` has been stored and the frame is to be judged. -/
def State.lastStored (s : State) (b : Byte) : State := { s.store b with remaining := 0 }

theorem body_last (b : Byte) (h : s.remaining = 1) : s.body b = (s.lastStored b).complete := by
  simp [State.body, State.lastStored, h]

/-! ### Runs of bytes -/

theorem exec_rx_running (b : Byte) (h : s.fault = none) : exec (.rx b) s = .next (s.receive b) :=
  whileRunning_running h

theorem feed_cons {b : Byte} {bs : List Byte} (h : s.fault = none) : feed (b :: bs) s = feed bs (s.receive b) := by
  simp [feed, exec_rx_running b h]

theorem feed_append {xs ys : List Byte} (h : feed xs s = .next t) : feed (xs ++ ys) s = feed ys t := by
  induction xs generalizing s with
  | nil => cases h; rfl
  | cons x xs ih =>
    simp only [List.cons_append, feed] at h ⊢
    split at h
    next u hu => exact ih h
    next o hu => exact absurd h (hu t)

theorem receive_fault (b : Byte) : (s.receive b).fault = s.fault := (receive_effect s b).frame.2.2.2.1
theorem receive_cfg (b : Byte) : (s.receive b).cfg = s.cfg := (receive_effect s b).frame.1

/-- An unfaulted run of bytes always completes, unfaulted and with the same parameters. -/
theorem feed_next (bs : List Byte) (h : s.fault = none) :
    ∃ t, feed bs s = .next t ∧ t.fault = none ∧ t.cfg = s.cfg := by
  induction bs generalizing s with
  | nil => exact ⟨s, rfl, h, rfl⟩
  | cons b bs ih =>
    obtain ⟨t, h1, h2, h3⟩ := ih (s := s.receive b) (by rw [receive_fault, h])
    exact ⟨t, by rw [feed_cons h, h1], h2, by rw [h3, receive_cfg]⟩

end Sys2Proof.Machine
end

