-- ==== Sys2Proof/Laws/PerInstr.lean ====
section
/-! SUPPORT. The family `TableRow`: every instruction's encoding carries the bits its row of spec/opcode_table.json
matches. -/

namespace Sys2Proof.Laws.TableRow

open Sys2Proof Sys2Proof.Machine

/-- The row's `mask` and `match`. -/
def row : Instr → Byte × Byte
  | .response _ _ => (0xFF, 0x00)
  | .responseAlt _ _ => (0xFF, 0x01)
  | .read _ _ => (0xFF, 0x02)
  | .write _ _ => (0xFF, 0x03)
  | .unknown04 _ _ _ => (0xFC, 0x04)
  | .unknown08 _ _ _ => (0xF8, 0x08)
  | .unknown10 _ _ _ => (0xF0, 0x10)
  | .unknown20 _ _ _ => (0xE0, 0x20)
  | .unknown40 _ _ _ => (0xC0, 0x40)
  | .unknown80 _ _ _ => (0x80, 0x80)
  | .rx _ => (0xF, 0x0)
  | .expire _ => (0xF, 0x1)
  | .register _ _ => (0xF, 0x2)
  | .unregister _ => (0xF, 0x3)
  | .query _ => (0xF, 0x4)
  | .send _ _ _ _ _ => (0xF, 0x5)
  | .rawsend _ => (0xF, 0x6)
  | .reset => (0xF, 0x7)

/-- The byte a row matches: byte 4 of a frame (30_encoding.md R49), the transaction code of an event (R52). -/
def matchedByte (i : Instr) : Byte := (encode i).getD (if isFrame i then 4 else 0) 0

/-- The matched byte of the encoding meets the row. -/
def Statement (i : Instr) : Prop := matchedByte i &&& (row i).1 = (row i).2

theorem response (id : Byte) (data : List Byte) : Statement (.response id data) := (by decide : (cmdResponse : Byte) &&& 0xFF = 0x00)

theorem responseAlt (id : Byte) (data : List Byte) : Statement (.responseAlt id data) := (by decide : (cmdResponseAlt : Byte) &&& 0xFF = 0x01)

theorem read (id : Byte) (data : List Byte) : Statement (.read id data) := (by decide : (cmdRead : Byte) &&& 0xFF = 0x02)

theorem write (id : Byte) (data : List Byte) : Statement (.write id data) := (by decide : (cmdWrite : Byte) &&& 0xFF = 0x03)

theorem unknown04 (low : BitVec 2) (id : Byte) (data : List Byte) : Statement (.unknown04 low id data) :=
  (by decide : ∀ l, cmdUnknown04 l &&& 0xFC = 0x04) low

theorem unknown08 (low : BitVec 3) (id : Byte) (data : List Byte) : Statement (.unknown08 low id data) :=
  (by decide : ∀ l, cmdUnknown08 l &&& 0xF8 = 0x08) low

theorem unknown10 (low : BitVec 4) (id : Byte) (data : List Byte) : Statement (.unknown10 low id data) :=
  (by decide : ∀ l, cmdUnknown10 l &&& 0xF0 = 0x10) low

theorem unknown20 (low : BitVec 5) (id : Byte) (data : List Byte) : Statement (.unknown20 low id data) :=
  (by decide : ∀ l, cmdUnknown20 l &&& 0xE0 = 0x20) low

theorem unknown40 (low : BitVec 6) (id : Byte) (data : List Byte) : Statement (.unknown40 low id data) :=
  (by decide : ∀ l, cmdUnknown40 l &&& 0xC0 = 0x40) low

theorem unknown80 (low : BitVec 7) (id : Byte) (data : List Byte) : Statement (.unknown80 low id data) :=
  (by decide : ∀ l, cmdUnknown80 l &&& 0x80 = 0x80) low

theorem rx (b : Byte) : Statement (.rx b) := (by decide : (0x0 : Byte) &&& 0xF = 0x0)

theorem expire (t : Tag) : Statement (.expire t) := (by decide : (0x1 : Byte) &&& 0xF = 0x1)

theorem register (id : Byte) (slot : Nat) : Statement (.register id slot) := (by decide : (0x2 : Byte) &&& 0xF = 0x2)

theorem unregister (id : Byte) : Statement (.unregister id) := (by decide : (0x3 : Byte) &&& 0xF = 0x3)

theorem query (id : Byte) : Statement (.query id) := (by decide : (0x4 : Byte) &&& 0xF = 0x4)

theorem send (slot : Nat) (id : Byte) (cmd : Byte) (addr : Byte) (params : List Byte) : Statement (.send slot id cmd addr params) := (by decide : (0x5 : Byte) &&& 0xF = 0x5)

theorem rawsend (bytes : List Byte) : Statement (.rawsend bytes) := (by decide : (0x6 : Byte) &&& 0xF = 0x6)

theorem reset : Statement .reset := (by decide : (0x7 : Byte) &&& 0xF = 0x7)

end Sys2Proof.Laws.TableRow
end

