-- ==== Sys2Proof/Laws/Runs.lean ====
section
/-! SUPPORT. Runs of received bytes: what a preamble, a header and the bytes of a body leave in the receive
buffer. -/

namespace Sys2Proof.Machine

variable {s t : State}

theorem FramerOnly.refl (s : State) : FramerOnly s s := rfl

theorem FramerOnly.trans {u : State} (h1 : FramerOnly s t) (h2 : FramerOnly t u) : FramerOnly s u := by
  rw [FramerOnly, h2, h1]

theorem FramerOnly.beyond (h : FramerOnly s t) : SameBeyondFramer s t := by rw [h]; simp [SameBeyondFramer]

theorem FramerOnly.cfg_eq (h : FramerOnly s t) : t.cfg = s.cfg := by rw [h]
theorem FramerOnly.fault_eq (h : FramerOnly s t) : t.fault = s.fault := by rw [h]

/-- The framer has the bytes `f` of a frame, in the state `st`, and the rest of the block is as in `s`. -/
structure Holds (s t : State) (st : FState) (f : List Byte) : Prop where
  fstate : t.fstate = st
  idx : t.idx = f.length
  bytes : t.rxbuf.take t.idx = f
  size : t.rxbuf.length = t.cfg.rxCapacity
  only : FramerOnly s t

/-- A stored byte extends what the framer has. -/
theorem Holds.store {st : FState} {f : List Byte} (h : Holds s t st f) (b : Byte) (hc : f.length < s.cfg.rxCapacity) :
    Holds s (t.store b) st (f ++ [b]) := by
  have hc' : t.idx < t.cfg.rxCapacity := by rw [h.idx, h.only.cfg_eq]; exact hc
  refine ⟨by simp [h.fstate], by simp [h.idx], ?_, ?_, h.only.trans (.store t b)⟩
  · rw [take_store b hc' h.size, h.bytes]
  · rw [length_store]; simp [h.size]

/-- Byte `i` of what the framer has. -/
theorem Holds.byteAt {st : FState} {f : List Byte} (h : Holds s t st f) {i : Nat} (hi : i < f.length) :
    t.byteAt i = f.getD i 0 := by
  conv_rhs => rw [← h.bytes]
  have : i < t.idx := h.idx ▸ hi
  simp [State.byteAt, List.getD_eq_getElem?_getD, this]

/-- A preamble takes the idle framer to HEADER, under either policy. -/
theorem feed_preamble (hs : s.Idle) (hz : s.rxbuf.length = s.cfg.rxCapacity) (hc : 2 ≤ s.cfg.rxCapacity)
    (hf : s.fault = none) :
    ∃ t, feed [preambleByte, preambleByte] s = .next t ∧ Holds s t .header [preambleByte, preambleByte] := by
  obtain ⟨hst, hi⟩ := hs
  have hl : ∃ a b rest, s.rxbuf = a :: b :: rest := by
    match hr : s.rxbuf with
    | [] => simp [hr] at hz; omega
    | [a] => simp [hr] at hz; omega
    | a :: b :: rest => exact ⟨a, b, rest, rfl⟩
  obtain ⟨a, b, rest, hr⟩ := hl
  have h1 : s.receive preambleByte = s.keepPreamble 0 preambleByte .seeking := by
    cases hp : s.cfg.syncPolicy with
    | lookback => rw [receive_lookback _ hst hp, seekLookback_lone (by omega)]
    | pairReset => rw [receive_pairReset _ hst hp, seekPair_first _ hi]
  have h2 : (s.keepPreamble 0 preambleByte .seeking).receive preambleByte =
      (s.keepPreamble 0 preambleByte .seeking).keepPreamble 1 preambleByte .header := by
    cases hp : s.cfg.syncPolicy with
    | lookback => rw [receive_lookback _ (by simp) (by simp [hp]), seekLookback_hit (by simp)]
    | pairReset =>
      rw [receive_pairReset _ (by simp) (by simp [hp]), seekPair_hit (by simp) (by simp [State.byteAt, hr])]
  refine ⟨(s.keepPreamble 0 preambleByte .seeking).keepPreamble 1 preambleByte .header,
    by rw [feed_cons hf, h1, feed_cons (by simp [hf]), h2]; rfl, ⟨by simp, by simp, ?_, by simp [hz], rfl⟩⟩
  simp [hr]

/-- The bytes of a body are stored while more of it is to come. -/
theorem feed_body {f bs : List Byte} {k : Nat} (h : Holds s t .body f) (hf : s.fault = none)
    (hr : t.remaining = bs.length + (k + 1)) (hc : f.length + bs.length ≤ s.cfg.rxCapacity) :
    ∃ u, feed bs t = .next u ∧ Holds s u .body (f ++ bs) ∧ u.remaining = k + 1 := by
  induction bs generalizing t f with
  | nil => exact ⟨t, rfl, by simpa using h, by simpa using hr⟩
  | cons b bs ih =>
    simp only [List.length_cons] at hr hc
    have h1 : t.receive b = { t.store b with remaining := t.remaining - 1 } := by
      rw [receive_body b h.fstate, body_more b (by omega)]
    have h2 := h.store b (by omega)
    obtain ⟨u, h3, h4, h5⟩ := ih (t := { t.store b with remaining := t.remaining - 1 }) (f := f ++ [b])
      ⟨h2.fstate, h2.idx, h2.bytes, h2.size, h2.only.trans rfl⟩
      (by simp only [hr]; omega) (by simp; omega)
    exact ⟨u, by rw [feed_cons (h.only.fault_eq.trans hf), h1, h3], by simpa using h4, h5⟩

/-- A frame up to its last byte, received from an idle framer whose buffer holds the frame. -/
theorem feed_frame {id len : Byte} {body : List Byte} (hs : s.Idle) (hz : s.rxbuf.length = s.cfg.rxCapacity)
    (hf : s.fault = none) (hl : len.toNat = body.length + 1) (hc : 4 + len.toNat ≤ s.cfg.rxCapacity) :
    ∃ t, feed ([preambleByte, preambleByte, id, len] ++ body) s = .next t ∧
      Holds s t .body ([preambleByte, preambleByte, id, len] ++ body) ∧ t.remaining = 1 := by
  obtain ⟨t, h1, h2⟩ := feed_preamble hs hz (by omega) hf
  have ht : t.fault = none := h2.only.fault_eq.trans hf
  have h3 := h2.store id (by simp; omega)
  have h4 := h3.store len (by simp; omega)
  have e1 : t.receive id = t.store id := by
    rw [receive_header id h2.fstate, header_id id (by rw [h2.idx]; decide)]
  have e2 : (t.store id).receive len = { (t.store id).store len with remaining := len.toNat, fstate := .body } := by
    rw [receive_header len h3.fstate, header_length len h3.idx (by rintro rfl; simp at hl)]
  obtain ⟨u, h5, h6, h7⟩ := feed_body (s := s)
    (t := { (t.store id).store len with remaining := len.toNat, fstate := .body })
    (f := [preambleByte, preambleByte, id, len]) (bs := body) (k := 0)
    ⟨rfl, h4.idx, h4.bytes, h4.size, h4.only.trans rfl⟩ hf hl (by simp; omega)
  refine ⟨u, ?_, h6, h7⟩
  rw [show [preambleByte, preambleByte, id, len] ++ body = [preambleByte, preambleByte] ++ (id :: len :: body) from rfl,
    feed_append h1, feed_cons ht, e1, feed_cons (by simp [ht]), e2, h5]

end Sys2Proof.Machine
end

