-- ==== Sys2Proof/Tests/Slice0.lean ====
section
/-! SUPPORT. Tests. Expected results are those of spec/95_test_vectors.md (the vector is named), or read off the
rule named. Then, for every statement with hypotheses, concrete states and operands that meet them. -/

namespace Sys2Proof.Tests

open Sys2Proof Sys2Proof.Machine

/-! ### Well-formed instructions: one ill-formed term for each check -/

theorem test_wf_frame_data {data : List Byte} (h : data.length = 254) :
    (Instr.response 1 data).wellFormed = false := by
  show decide (data.length ≤ 253) = false
  rw [h]; decide
theorem test_wf_frame_data_max {data : List Byte} (h : data.length = 253) :
    (Instr.unknown80 0x7F 0xFF data).wellFormed = true := by
  show decide (data.length ≤ 253) = true
  rw [h]; decide
theorem test_wf_frame_ill : (Instr.response 1 (List.replicate 254 0)).wellFormed = false :=
  test_wf_frame_data List.length_replicate
theorem test_wf_slot_register : (Instr.register 1 65536).wellFormed = false := by decide
theorem test_wf_slot_send : (Instr.send 65536 1 2 0 []).wellFormed = false := by decide

/-! ### Decoding: words written out from 30_encoding.md R46 to R52 -/

/-- V-DX-1's frame. -/
theorem test_decode_response :
    decode [0xFF, 0xFF, 0x01, 0x04, 0x00, 0x02, 0x00, 0xF8] = .ok (.response 0x01 [0x02, 0x00]) := by decide
/-- V-DX-2's frame. -/
theorem test_decode_responseAlt : decode [0xFF, 0xFF, 0x01, 0x02, 0x01, 0xFB] = .ok (.responseAlt 0x01 []) := by
  decide
/-- V-ENC-3. -/
theorem test_decode_read :
    decode [0xFF, 0xFF, 0x01, 0x04, 0x02, 0x38, 0x02, 0xBE] = .ok (.read 0x01 [0x38, 0x02]) := by decide
/-- V-ENC-1. -/
theorem test_decode_write :
    decode [0xFF, 0xFF, 0x01, 0x04, 0x03, 0x28, 0x01, 0xCE] = .ok (.write 0x01 [0x28, 0x01]) := by decide
/-- V-DX-5's frame; and commands 08, 1F, 20, 7F and FF, sums 01 + 02 + command. -/
theorem test_decode_unknown04 : decode [0xFF, 0xFF, 0x01, 0x03, 0x04, 0x01, 0xF6] = .ok (.unknown04 0 0x01 [0x01]) := by
  decide
theorem test_decode_unknown08 : decode [0xFF, 0xFF, 0x01, 0x02, 0x08, 0xF4] = .ok (.unknown08 0 0x01 []) := by decide
theorem test_decode_unknown10 : decode [0xFF, 0xFF, 0x01, 0x02, 0x1F, 0xDD] = .ok (.unknown10 0xF 0x01 []) := by decide
theorem test_decode_unknown20 : decode [0xFF, 0xFF, 0x01, 0x02, 0x20, 0xDC] = .ok (.unknown20 0 0x01 []) := by decide
theorem test_decode_unknown40 : decode [0xFF, 0xFF, 0x01, 0x02, 0x7F, 0x7D] = .ok (.unknown40 0x3F 0x01 []) := by decide
theorem test_decode_unknown80 : decode [0xFF, 0xFF, 0x01, 0x02, 0xFF, 0xFD] = .ok (.unknown80 0x7F 0x01 []) := by decide
theorem test_decode_rx : decode [0x00, 0xFC] = .ok (.rx 0xFC) := by decide
theorem test_decode_expire : decode [0x01, 0x12, 0x34] = .ok (.expire 0x1234) := by decide
theorem test_decode_register : decode [0x02, 0x01, 0x00, 0x02] = .ok (.register 0x01 2) := by decide
theorem test_decode_unregister : decode [0x03, 0x01] = .ok (.unregister 0x01) := by decide
theorem test_decode_query : decode [0x04, 0xFE] = .ok (.query 0xFE) := by decide
theorem test_decode_send :
    decode [0x05, 0x00, 0x01, 0x02, 0x03, 0x28, 0x01] = .ok (.send 1 0x02 0x03 0x28 [0x01]) := by decide
theorem test_decode_rawsend : decode [0x06, 0xFF, 0xFF, 0x01] = .ok (.rawsend [0xFF, 0xFF, 0x01]) := by decide
theorem test_decode_reset : decode [0x07] = .ok .reset := by decide

/-- V-DEC-2's and V-DEC-4's errors, a frame with `L = 1`, a code that is no event, missing operands. -/
theorem test_decode_checksum :
    decode [0xFF, 0xFF, 0x01, 0x04, 0x03, 0x28, 0x01, 0xCF] = .error .checksumMismatch := by decide
theorem test_decode_length : decode [0xFF, 0xFF, 0x01, 0x05, 0x03, 0x28, 0x01, 0xCE] = .error .notAFrame := by decide
theorem test_decode_short : decode [0xFF, 0xFF, 0x01, 0x01, 0xFD] = .error .lengthError := by decide
theorem test_decode_code8 : decode [0x08, 0x00] = .error .notAnEvent := by decide
theorem test_decode_operands : decode [0x01, 0x00] = .error .wrongOperands := by decide

/-! ### Codec vectors -/

/-- V-CK-5. -/
theorem test_checksum : checksum [0x01, 0x05, 0x00, 0xFF, 0xFF, 0x00] = 0xFB := by decide
/-- V-ENC-4 and V-ENC-7. -/
theorem test_encode_empty :
    encodeFrame 57 0x01 0x03 0x28 [] = .ok [0xFF, 0xFF, 0x01, 0x03, 0x03, 0x28, 0xD0] := by decide
theorem test_encode_id :
    encodeFrame 57 0xFC 0x03 0x28 [0x01] = .ok [0xFF, 0xFF, 0xFC, 0x04, 0x03, 0x28, 0x01, 0xD3] := by decide
/-- V-DEC-1, V-DEC-3 and V-DEC-5. -/
theorem test_decodeFrame : decodeFrame [0xFF, 0xFF, 0x01, 0x03, 0x03, 0x28, 0xD0] = .ok (0x01, 0x03, 0x28, []) := by
  decide
theorem test_decodeFrame_short : decodeFrame [0xFF, 0xFF, 0x01, 0x02, 0x00, 0xFC] = .error .notAFrame := by decide
theorem test_decodeFrame_preamble :
    decodeFrame [0xFE, 0xFF, 0x01, 0x04, 0x03, 0x28, 0x01, 0xCE] = .error .notAFrame := by decide

/-! ### States -/

/-- Two registered ids, slot 0 with two requests pending, slot 1 with one, in SEEKING. -/
def demo : State :=
  { State.resetWith { rxCapacity := 16 } with
    regtable := ((Vector.replicate 256 none).set 1 (some 0)).set 2 (some 1)
    queue := [[5, 6], [7]]
    nextTag := 8
    trace := [.arm 5 40, .arm 6 40, .arm 7 40] }

/-- `demo` with nothing pending in slot 1. -/
def roomy : State := { demo with queue := [[5, 6], []], trace := [.arm 5 40, .arm 6 40] }

/-- `demo` with the framer in `st`, holding the bytes `f`, with `r` still to come. -/
def receiving (st : FState) (f : List Byte) (r : Nat) : State :=
  { demo with fstate := st, rxbuf := f ++ List.replicate (16 - f.length) 0, idx := f.length, remaining := r }

/-- `s` under the other synchronisation policy. -/
def paired (s : State) : State := { s with cfg := { s.cfg with syncPolicy := .pairReset } }

/-- `s` with `PAYLOAD_START = 6`. -/
def startSix (s : State) : State := { s with cfg := { s.cfg with payloadStart := .six } }

/-- `s` faulted. -/
def broken (s : State) : State := { s with fault := some .encodeOverflow }

/-- The outputs of a step beyond those before it. -/
def outs (s : State) : StepResult → Option (List Output)
  | .next t => some (newOutputs s t)
  | _ => none

/-- A field of the next state. -/
def fieldOf {α : Type} (f : State → α) : StepResult → Option α
  | .next t => some (f t)
  | _ => none

/-! ### One step of each instruction -/

/-- V-DX-1: the oldest request, here tag 5; V-DX-1 with `PAYLOAD_START = 6`. -/
theorem test_response : outs demo (exec (.response 0x01 [0x02, 0x00]) demo) =
    some [.clear 5, .complete 0 5 (.response [0x02, 0x00])] := by decide
theorem test_response_six : outs demo (exec (.response 0x01 [0x02, 0x00]) (startSix demo)) =
    some [.clear 5, .complete 0 5 (.response [0x00])] := by decide
/-- V-DX-2 and V-DX-3 (for the other command byte). -/
theorem test_responseAlt : fieldOf State.queue (exec (.responseAlt 0x02 []) demo) = some [[5, 6], []] := by decide
theorem test_responseAlt_id : outs demo (exec (.responseAlt 0x07 [0x01]) demo) = some [.log .unknownId 0x07 0x01] := by
  decide
/-- V-DX-6: the command test comes first. -/
theorem test_read : outs demo (exec (.read 0x07 [0x38, 0x02]) demo) = some [] := by decide
theorem test_write : outs demo (exec (.write 0x07 [0x28, 0x01]) demo) = some [] := by decide
/-- V-DX-5, and R71 for the other bytes. -/
theorem test_unknown04 : outs demo (exec (.unknown04 0 0x01 [0x01]) demo) = some [.log .unknownCommand 0x01 0x04] := by
  decide
theorem test_unknown08 : outs demo (exec (.unknown08 7 0x01 []) demo) = some [.log .unknownCommand 0x01 0x0F] := by
  decide
theorem test_unknown10 : outs demo (exec (.unknown10 0 0x01 []) demo) = some [.log .unknownCommand 0x01 0x10] := by
  decide
theorem test_unknown20 : outs demo (exec (.unknown20 5 0x01 []) demo) = some [.log .unknownCommand 0x01 0x25] := by
  decide
theorem test_unknown40 : outs demo (exec (.unknown40 0x3F 0x01 []) demo) = some [.log .unknownCommand 0x01 0x7F] := by
  decide
theorem test_unknown80 : outs demo (exec (.unknown80 0 0x01 []) demo) = some [.log .unknownCommand 0x01 0x80] := by
  decide
/-- V-FR-7: the last byte of a frame with a wrong checksum; V-FR-11's state before `02`. -/
theorem test_rx_checksum : outs demo (exec (.rx 0xFD) (receiving .body [0xFF, 0xFF, 0x01, 0x02, 0x00] 1)) =
    some [.log .checksumMismatch 0x01 0x02] := by decide
theorem test_rx_body : fieldOf (fun t => (t.fstate, t.idx, t.remaining))
    (exec (.rx 0x02) (receiving .body [0xFF, 0xFF, 0x01, 0x04, 0x00] 3)) = some (.body, 6, 2) := by decide
/-- V-CR-9: not the head of its queue; V-CR-8. -/
theorem test_expire : fieldOf State.queue (exec (.expire 6) demo) = some [[5], [7]] := by decide
theorem test_expire_unknown : outs demo (exec (.expire 3) demo) = some [] := by decide
/-- V-DX-9 and V-DX-8. -/
theorem test_register_slot : outs demo (exec (.register 0x03 2) demo) = some [.result .badSlot] := by decide
theorem test_register_id : outs demo (exec (.register 0xFD 0) demo) = some [.result .idOutOfRange] := by decide
/-- V-DX-12. -/
theorem test_unregister : outs demo (exec (.unregister 0x09) demo) = some [.result .ok] := by decide
theorem test_unregister_queue : fieldOf State.queue (exec (.unregister 0x01) demo) = some [[5, 6], [7]] := by decide
/-- V-DX-13. -/
theorem test_query : outs demo (exec (.query 0x02) demo) = some [.result (.registered 1)] := by decide
/-- V-CR-12: the last tag, and the counter wraps. -/
theorem test_send : outs roomy (exec (.send 1 0x02 0x02 0x38 [0x02]) { roomy with nextTag := 0xFFFF }) =
    some [.arm 0xFFFF 40, .tx [0xFF, 0xFF, 0x02, 0x04, 0x02, 0x38, 0x02, 0xBD], .result (.okTag 0xFFFF)] := by decide
theorem test_send_wraps :
    fieldOf State.nextTag (exec (.send 1 0x02 0x02 0x38 [0x02]) { roomy with nextTag := 0xFFFF }) = some 0 := by decide
/-- V-DX-14 and V-DX-15. -/
theorem test_rawsend : outs demo (exec (.rawsend [0xFF, 0xFF, 0x01, 0x02, 0x01, 0xFB]) demo) =
    some [.tx [0xFF, 0xFF, 0x01, 0x02, 0x01, 0xFB], .result .ok] := by decide
theorem test_rawsend_empty : outs demo (exec (.rawsend []) demo) = some [.tx [], .result .ok] := by decide
/-- V-FT-4 and V-RS-2. -/
theorem test_reset : outs demo (exec .reset (broken demo)) = some [.clear 5, .clear 6, .clear 7] := by decide
theorem test_reset_body : fieldOf (fun t => (t.fstate, t.idx, t.fault))
    (exec .reset (broken (receiving .body [0xFF, 0xFF, 0x01, 0x04] 4))) = some (.seeking, 0, none) := by decide

/-! ### The step, and the table's words -/

theorem test_step_waits : outs State.reset (step State.reset) = some [] := by decide
theorem test_step_register :
    outs State.reset (step { State.reset with inbox := [[0x02, 0x01, 0x00, 0x01]] }) = some [.result .ok] := by decide
/-- The word of a QUERY row, and that of the row 0x40: its frame's last byte runs it, here from reset. -/
theorem test_fetch_query :
    outs State.reset (step (State.reset.withFetchWord 8 0x04)) = some [.result .notRegistered] := by decide
theorem test_fetch_unknown :
    outs State.reset (step (State.reset.withFetchWord 8 0x40)) = some [.log .unknownCommand 0x00 0x40] := by decide
theorem test_table_word : decodeTableWord 8 0x80 = some (.unknown80 0 0 []) := by decide
theorem test_table_word_event : decodeTableWord 8 0x05 = some (.send 0 0 0 0 []) := by decide

/-! ### The host: E7, E9, E10, P1 to P3 -/

/-- E10; and that the sum of R86 is rounded to f64: 0.1 + 0.2 is 0.30000000000000004. -/
theorem test_angle : (rawOfAngle 100 0, rawOfAngle 200 0, rawOfAngle (-5) 0, rawOfAngle (1999 / 10) 0,
    rawOfAngle (1 / 10) (1 / 10)) = (512, 1023, 0, 1023, 1) := by decide +kernel
theorem test_f64 : f64 (f64 (1 / 10) + f64 (2 / 10)) = 5404319552844596 / 2 ^ 54 := by decide +kernel
/-- E9 and U14. -/
theorem test_decodeOffset : decodeOffset [0x80, 0x96] = .result (-150) := by decide
theorem test_encOffset : encOffset 2001 = none ∧ encOffset (-2000) = some 0x87D0 := by decide

/-- Id 1 on slot 0, nothing pending, as after `REGISTER id=01 slot=0`. -/
def idle : State :=
  { State.resetWith { rxCapacity := 16 } with regtable := (Vector.replicate 256 none).set 1 (some 0) }

/-- How a session has ended, if it has, and the outputs so far. -/
def endOf {α : Type} : SessionResult α → Option (Option (Ending α) × List Output)
  | .next c =>
    match c.op with
    | .ended e => some (some e, c.block.trace)
    | _ => some (none, c.block.trace)
  | _ => none

/-- P1: the echo goes by, the acknowledgment ends the operation. -/
theorem test_setTorque :
    endOf (Session.run [.host, .event (.write 0x01 [0x28, 0x01]), .host, .event (.response 0x01 [])]
      ⟨idle, setTorque 0 0x01 true⟩) =
    some (some (.result ()), [.arm 0 40, .tx [0xFF, 0xFF, 0x01, 0x04, 0x03, 0x28, 0x01, 0xCE], .result (.okTag 0),
      .clear 0, .complete 0 0 (.response [])]) := by decide
/-- R89: a `Timeout` is the failure. -/
theorem test_setTorque_timeout :
    (endOf (Session.run [.host, .event (.expire 0)] ⟨idle, setTorque 0 0x01 true⟩)).map Prod.fst =
      some (some (.failed .timeout)) := by decide
/-- E7's frame. -/
theorem test_setAngle :
    (endOf (Session.run [.host] ⟨idle, setAngle 0 0x01 100 0⟩)).map Prod.snd =
    some [.arm 0 40, .tx [0xFF, 0xFF, 0x01, 0x05, 0x03, 0x2A, 0x02, 0x00, 0xCA], .result (.okTag 0)] := by
  decide +kernel
/-- P4's tag 1: a payload shorter than two bytes. -/
theorem test_readStatus_short :
    (endOf (Session.run [.host, .event (.responseAlt 0x01 [])] ⟨idle, readStatus 0 0x01 [0x02]⟩)).map Prod.fst =
      some (some (.failed .shortResponse)) := by decide
/-- P3: the frames in order, each write awaited, and LOCK=1 only after the acknowledgment under the new id. -/
theorem test_flashId :
    endOf (Session.run [.host, .event (.response 0x01 []), .host, .event (.response 0x02 []), .host,
      .event (.response 0x02 []), .host] ⟨idle, flashId 0 0x01 0x02⟩) =
    some (some (.result ()), [.result .notRegistered,
      .arm 0 40, .tx [0xFF, 0xFF, 0x01, 0x04, 0x03, 0x30, 0x00, 0xC7], .result (.okTag 0),
      .clear 0, .complete 0 0 (.response []),
      .arm 1 40, .tx [0xFF, 0xFF, 0x01, 0x04, 0x03, 0x05, 0x02, 0xF0], .result (.okTag 1), .result .ok,
      .clear 1, .complete 0 1 (.response []),
      .arm 2 40, .tx [0xFF, 0xFF, 0x02, 0x04, 0x03, 0x30, 0x01, 0xC5], .result (.okTag 2),
      .clear 2, .complete 0 2 (.response []), .result .ok]) := by decide
/-- R93, step 1: a taken id. -/
theorem test_flashId_taken :
    endOf (Session.run [.host] ⟨{ idle with regtable := idle.regtable.set 2 (some 1) }, flashId 0 0x01 0x02⟩) =
      some (some (.failed .idAlreadyRegistered), [.result (.registered 1)]) := by decide

/-! ### The hypotheses of the statements can be met

One theorem per statement with hypotheses, named after it, its conjuncts the hypotheses of the statement's clauses
at boundary values. `Obligations.X` is written without its prefix. -/

/-- The invariants from tests that can be evaluated. -/
theorem inv_of {s : State} (hv : s.cfg.Valid) (hs : s.rxbuf.length = s.cfg.rxCapacity)
    (hq : s.queue.length = s.cfg.numEndpoints) (hf : s.FramerInv)
    (ht : ∀ id : Byte, (s.lookup id).all (fun slot => decide (¬ maxId < id ∧ slot < s.cfg.numEndpoints)) = true)
    (hn : s.pending.Nodup) (hd : ∀ q ∈ s.queue, q.length ≤ s.cfg.queueDepth) : s.Inv := by
  refine ⟨hv, ⟨hs, hq⟩, hf, fun id => ⟨fun h => ?_, fun slot h => ?_⟩, hn, hd⟩
  · cases hl : s.lookup id with
    | none => rfl
    | some slot => have := ht id; simp_all
  · have := ht id; simp_all

theorem demo_table : ∀ id : Byte, (demo.lookup id).all (fun slot => decide (¬ maxId < id ∧ slot < 2)) = true := by
  decide

theorem demo_inv : demo.Inv :=
  inv_of (by decide) (by decide) (by decide) ⟨by decide, by decide⟩ demo_table (by decide) (by decide)

theorem roomy_inv : roomy.Inv :=
  inv_of (by decide) (by decide) (by decide) ⟨by decide, by decide⟩ demo_table (by decide) (by decide)

/-- HEADER after the preamble, and after the id. -/
theorem header_id_inv : (receiving .header [0xFF, 0xFF] 0).Inv :=
  inv_of (by decide) (by decide) (by decide) ⟨by decide, by decide, by decide⟩ demo_table (by decide) (by decide)
theorem header_length_inv : (receiving .header [0xFF, 0xFF, 0x01] 0).Inv :=
  inv_of (by decide) (by decide) (by decide) ⟨by decide, by decide, by decide⟩ demo_table (by decide) (by decide)

/-- BODY before the last byte: of a shortest frame, and of one with `L = 1`. -/
theorem body_inv : (receiving .body [0xFF, 0xFF, 0x01, 0x02, 0x00] 1).Inv :=
  inv_of (by decide) (by decide) (by decide) ⟨by decide, by decide, by decide, by decide, by decide⟩ demo_table
    (by decide) (by decide)
theorem body_short_inv : (receiving .body [0xFF, 0xFF, 0x01, 0x01] 1).Inv :=
  inv_of (by decide) (by decide) (by decide) ⟨by decide, by decide, by decide, by decide, by decide⟩ demo_table
    (by decide) (by decide)

/-- The last byte of a frame of 17 bytes, one more than the buffer holds. -/
def overflowing : State := { receiving .body [0xFF, 0xFF, 0x01, 0x0D, 0x00] 1 with idx := 16 }

theorem overflowing_inv : overflowing.Inv :=
  inv_of (by decide) (by decide) (by decide) ⟨by decide, by decide, by decide, by decide, by decide⟩ demo_table
    (by decide) (by decide)

theorem witness_ChecksumComplementsTheSum : (([0x80, 0x80] : List Byte).map BitVec.toNat).sum % 256 = 0 := by decide

theorem witness_EncodeBuildsTheFrame :
    57 ≤ 252 ∧ 57 < (List.replicate 58 (0 : Byte)).length ∧ (List.replicate 57 (0 : Byte)).length ≤ 57 := by decide

theorem witness_DecodeFrameTestsInOrder :
    ([0xFF, 0xFF, 0x01, 0x02, 0x00, 0xFC] : List Byte).length < 7 ∧
    ([0xFE, 0xFF, 0x01, 0x03, 0x03, 0x28, 0xD0] : List Byte).getD 0 0 ≠ 0xFF ∧
    ([0xFF, 0xFE, 0x01, 0x03, 0x03, 0x28, 0xD0] : List Byte).getD 1 0 ≠ 0xFF ∧
    ([0xFF, 0xFF, 0x01, 0x04, 0x03, 0x28, 0xD0] : List Byte).length ≠ 4 + 4 ∧
    (let f : List Byte := [0xFF, 0xFF, 0x01, 0x03, 0x03, 0x28, 0xD1]
     7 ≤ f.length ∧ f.getD 0 0 = 0xFF ∧ f.getD 1 0 = 0xFF ∧ f.length = 4 + (f.getD 3 0).toNat ∧
       checksum (slice f 2 (f.length - 1)) ≠ f.getD (f.length - 1) 0) ∧
    (let f : List Byte := [0xFF, 0xFF, 0x01, 0x03, 0x03, 0x28, 0xD0]
     7 ≤ f.length ∧ f.getD 0 0 = 0xFF ∧ f.getD 1 0 = 0xFF ∧ f.length = 4 + (f.getD 3 0).toNat ∧
       checksum (slice f 2 (f.length - 1)) = f.getD (f.length - 1) 0) := by decide

theorem witness_FrameCodecRoundTrip :
    ({} : Config).Valid ∧ (List.replicate 57 (0 : Byte)).length ≤ ({} : Config).maxParams ∧
      encodeFrame ({} : Config).maxParams 0x01 0x03 0x28 [] =
        .ok [0xFF, 0xFF, 0x01, 0x03, 0x03, 0x28, 0xD0] := by decide

theorem witness_ChecksumDetectsOneChangedByte :
    let f : List Byte := [0xFF, 0xFF, 0x01, 0x02, 0x00, 0xFC]
    3 ≤ f.length ∧ checksum (slice f 2 (f.length - 1)) = f.getD (f.length - 1) 0 ∧
      (2 < f.length ∧ (0x02 : Byte) ≠ f.getD 2 0) ∧ (5 < f.length ∧ (0x00 : Byte) ≠ f.getD 5 0) := by decide

theorem witness_DecodeInvertsEncode :
    (Instr.send 65535 0xFF 0xFF 0xFF [0xFF]).wellFormed = true ∧ (Instr.expire 0xFFFF).wellFormed = true ∧
      (Instr.unknown80 0x7F 0xFF (List.replicate 253 0xFF)).wellFormed = true :=
  ⟨by decide, by decide, test_wf_frame_data_max List.length_replicate⟩

theorem witness_EncodeInvertsDecode :
    decode [0xFF, 0xFF, 0x01, 0x02, 0x80, 0x7C] = .ok (.unknown80 0 0x01 []) ∧
      decode [0x05, 0xFF, 0xFF, 0x01, 0x03, 0x28] = .ok (.send 65535 0x01 0x03 0x28 []) := by decide

theorem witness_OtherCodesAreNoEvents :
    8 ≤ (0x08 : Byte).toNat ∧ 8 ≤ (0xFF : Byte).toNat ∧ { demo with inbox := [[0x08]] }.inbox = [0x08] :: [] := by decide

theorem witness_StepRunsTheDecodedEvent :
    State.reset.inbox = [] ∧ { demo with inbox := [[0x07]] }.inbox = [0x07] :: [] ∧
      decodeEvent [0x07] = .ok .reset := by decide

theorem witness_LastByteRunsTheFrame :
    let s := receiving .body [0xFF, 0xFF, 0x01, 0x02, 0x00] 1
    s.Inv ∧ s.fault = none ∧ s.fstate = .body ∧ s.remaining = 1 ∧ s.idx + 1 ≤ s.cfg.rxCapacity ∧
      decodeWire (s.rxbuf.take s.idx ++ [0xFC]) = .ok (.response 0x01 []) :=
  ⟨body_inv, by decide⟩

theorem witness_UnknownCommandsAreLogged : demo.fault = none := by decide

theorem witness_ClassifyByCommand :
    ([0xFF, 0xFF, 0x01, 0x02, 0x03, 0xF9] : List Byte).getD 4 0 = 0x03 ∧
      ([0xFF, 0xFF, 0x01, 0x02, 0x01, 0xFB] : List Byte).getD 4 0 = 0x01 ∧
      (0x03 : Byte) < ([0xFF, 0xFF, 0x01, 0x02, 0x04, 0xF8] : List Byte).getD 4 0 := by decide

theorem witness_ClassifyRunsTheRow :
    demo.fault = none ∧ decodeWire [0xFF, 0xFF, 0x01, 0x02, 0x01, 0xFB] = .ok (.responseAlt 0x01 []) ∧
      decodeWire [0xFF, 0xFF, 0x01, 0x02, 0x03, 0xF9] = .ok (.write 0x01 []) ∧
      decodeWire [0xFF, 0xFF, 0x01, 0x02, 0x04, 0xF8] = .ok (.unknown04 0 0x01 []) := by decide

theorem witness_ResponsesAreDispatchedById :
    demo.fault = none ∧ demo.lookup 0xFF = none ∧ (demo.lookup 0x01 = some 0 ∧ demo.cfg.payloadStart = .five) ∧
      (startSix demo).fault = none ∧ (startSix demo).lookup 0x02 = some 1 ∧
      (startSix demo).cfg.payloadStart = .six := by decide

theorem witness_ResponseResolvesTheOldest :
    (demo.fault = none ∧ demo.lookup 0x01 = some 0 ∧ demo.queueOf 0 = 5 :: [6] ∧ demo.cfg.payloadStart = .five) ∧
    ((startSix demo).lookup 0x02 = some 1 ∧ (startSix demo).queueOf 1 = 7 :: [] ∧
      (startSix demo).cfg.payloadStart = .six) ∧
    (roomy.lookup 0x02 = some 1 ∧ roomy.queueOf 1 = [] ∧ 1 < 256) := by decide

theorem witness_SeekingUnderLookback :
    demo.fault = none ∧ demo.fstate = .seeking ∧ demo.cfg.syncPolicy = .lookback ∧ demo.idx ≠ 1 ∧
      (receiving .seeking [0xFF] 0).fault = none ∧ (receiving .seeking [0xFF] 0).fstate = .seeking ∧
      (receiving .seeking [0xFF] 0).cfg.syncPolicy = .lookback ∧ (receiving .seeking [0xFF] 0).idx = 1 ∧
      (0xFE : Byte) ≠ 0xFF := by decide

theorem witness_SeekingUnderPairReset :
    (paired demo).fault = none ∧ (paired demo).fstate = .seeking ∧ (paired demo).cfg.syncPolicy = .pairReset ∧
      (paired demo).idx = 0 ∧
    (let s := paired (receiving .seeking [0xFF] 0)
     s.fault = none ∧ s.fstate = .seeking ∧ s.cfg.syncPolicy = .pairReset ∧ s.idx ≠ 0 ∧ s.byteAt 0 = 0xFF ∧
       ¬ (s.byteAt 0 = 0xFF ∧ (0x01 : Byte) = 0xFF)) := by decide

theorem witness_HeaderTakesIdAndLength :
    ((receiving .header [0xFF, 0xFF] 0).Inv ∧ (receiving .header [0xFF, 0xFF] 0).fault = none ∧
      (receiving .header [0xFF, 0xFF] 0).fstate = .header ∧ (receiving .header [0xFF, 0xFF] 0).idx = 2) ∧
    (receiving .header [0xFF, 0xFF, 0x01] 0).Inv ∧ (receiving .header [0xFF, 0xFF, 0x01] 0).fault = none ∧
      (receiving .header [0xFF, 0xFF, 0x01] 0).fstate = .header ∧
      (receiving .header [0xFF, 0xFF, 0x01] 0).idx = 3 ∧ (0x01 : Byte) ≠ 0 :=
  ⟨⟨header_id_inv, by decide⟩, header_length_inv, by decide⟩

theorem witness_BodyCountsDown :
    (let s := receiving .body [0xFF, 0xFF, 0x01, 0x02] 2
     s.fault = none ∧ s.fstate = .body ∧ 2 ≤ s.remaining ∧ s.idx < s.cfg.rxCapacity) ∧
    (let s := { overflowing with remaining := 2 }
     s.fault = none ∧ s.fstate = .body ∧ 2 ≤ s.remaining ∧ s.cfg.rxCapacity ≤ s.idx) ∧
    (overflowing.fault = none ∧ overflowing.fstate = .body ∧ overflowing.remaining = 1) := by decide

theorem witness_CompletionTestsInOrder :
    (overflowing.Inv ∧ overflowing.fault = none ∧ overflowing.fstate = .body ∧ overflowing.remaining = 1 ∧
      overflowing.cfg.rxCapacity < 4 + (overflowing.byteAt 3).toNat) ∧
    (let s := receiving .body [0xFF, 0xFF, 0x01, 0x01] 1
     s.Inv ∧ s.fault = none ∧ s.fstate = .body ∧ s.remaining = 1 ∧
       4 + (s.byteAt 3).toNat ≤ s.cfg.rxCapacity ∧ (s.byteAt 3).toNat < 2) ∧
    (let s := receiving .body [0xFF, 0xFF, 0x01, 0x02, 0x00] 1
     s.Inv ∧ s.fault = none ∧ s.fstate = .body ∧ s.remaining = 1 ∧
       4 + (s.byteAt 3).toNat ≤ s.cfg.rxCapacity ∧ 2 ≤ (s.byteAt 3).toNat ∧
       checksum (slice (s.rxbuf.take s.idx ++ [0xFC]) 2 5) = 0xFC ∧
       checksum (slice (s.rxbuf.take s.idx ++ [0xFD]) 2 5) ≠ 0xFD) ∧
    (receiving .header [0xFF, 0xFF, 0x01] 0).Inv ∧ (receiving .header [0xFF, 0xFF, 0x01] 0).fault = none ∧
      (receiving .header [0xFF, 0xFF, 0x01] 0).fstate = .header ∧ (receiving .header [0xFF, 0xFF, 0x01] 0).idx = 3 :=
  ⟨⟨overflowing_inv, by decide⟩, ⟨body_short_inv, by decide⟩, ⟨body_inv, by decide⟩, header_length_inv, by decide⟩

theorem witness_FramerNeverWedges :
    ((receiving .body [0xFF, 0xFF, 0x01, 0x01] 1).Inv ∧ (receiving .body [0xFF, 0xFF, 0x01, 0x01] 1).fault = none ∧
      (receiving .body [0xFF, 0xFF, 0x01, 0x01] 1).fstate = .body ∧
      ([0xFF] : List Byte).length = (receiving .body [0xFF, 0xFF, 0x01, 0x01] 1).remaining) ∧
    (receiving .header [0xFF, 0xFF, 0x01] 0).Inv ∧ (receiving .header [0xFF, 0xFF, 0x01] 0).fault = none ∧
      (receiving .header [0xFF, 0xFF, 0x01] 0).fstate = .header ∧
      4 + 255 - (receiving .header [0xFF, 0xFF, 0x01] 0).idx ≤ (List.replicate 256 (0xFF : Byte)).length :=
  ⟨⟨body_short_inv, by decide⟩, header_length_inv, by decide, by decide,
    by rw [List.length_replicate]; decide⟩

theorem witness_LookbackSyncPoint :
    demo.Idle ∧ demo.fault = none ∧ demo.cfg.syncPolicy = .lookback ∧
      hasPreamble [0x00, 0xFF, 0x00, 0xFF] = false ∧ ([0x00, 0xFF, 0x00, 0xFF] : List Byte).getLast? = some 0xFF :=
  ⟨⟨rfl, rfl⟩, by decide⟩

theorem witness_PairResetSyncPoint :
    (paired demo).Idle ∧ (paired demo).Sized ∧ (paired demo).cfg.Valid ∧ (paired demo).fault = none ∧
      (paired demo).cfg.syncPolicy = .pairReset ∧ ([0x00, 0xFF, 0xFF, 0x01] : List Byte).length % 2 = 0 ∧
      hasAlignedPreamble [0x00, 0xFF, 0xFF, 0x01] = false :=
  ⟨⟨rfl, rfl⟩, ⟨by decide, by decide⟩, by decide⟩

theorem witness_NoiseAroundOneFrame :
    (demo.Idle ∧ demo.Sized ∧ demo.cfg.Valid ∧ demo.fault = none ∧
      QuietNoise demo.cfg.syncPolicy [0x00, 0x13, 0xFF, 0x00] ∧
      decodeWire [0xFF, 0xFF, 0x01, 0x02, 0x00, 0xFC] = .ok (.response 0x01 []) ∧ 6 ≤ demo.cfg.rxCapacity ∧
      hasPreamble [0x00, 0xFF] = false) ∧
    ((paired demo).Idle ∧ (paired demo).Sized ∧ (paired demo).cfg.Valid ∧ (paired demo).fault = none ∧
      QuietNoise (paired demo).cfg.syncPolicy [0x13, 0xFF]) :=
  ⟨⟨⟨rfl, rfl⟩, ⟨by decide, by decide⟩, by decide, rfl, ⟨by decide, by decide⟩, by decide⟩,
    ⟨rfl, rfl⟩, ⟨by decide, by decide⟩, by decide, rfl, ⟨by decide, by decide⟩⟩

theorem witness_WrongChecksumIsLogged :
    demo.Idle ∧ demo.Sized ∧ demo.cfg.Valid ∧ demo.fault = none ∧
      (0x02 : Byte).toNat = ([0x00] : List Byte).length + 1 ∧ 2 ≤ (0x02 : Byte).toNat ∧
      4 + (0x02 : Byte).toNat ≤ demo.cfg.rxCapacity ∧ (0xFD : Byte) ≠ checksum [0x01, 0x02, 0x00] :=
  ⟨⟨rfl, rfl⟩, ⟨by decide, by decide⟩, by decide⟩

theorem witness_FramerIgnoresTheRest :
    SameFramer demo roomy ∧ roomy.cfg = demo.cfg ∧ roomy.fault = demo.fault ∧
      (∃ t, exec (.rx 0xFF) demo = .next t) ∧ ∃ t, exec (.rx 0xFF) roomy = .next t :=
  ⟨⟨rfl, rfl, rfl, rfl⟩, rfl, rfl, ⟨_, rfl⟩, _, rfl⟩

theorem witness_RegisterChecksThenBinds :
    (broken demo).fault ≠ none ∧ demo.fault = none ∧ demo.cfg.numEndpoints ≤ 2 ∧ 1 < demo.cfg.numEndpoints ∧
      (0xFC : Byte) < 0xFD ∧ (0xFC : Byte) ≤ 0xFC ∧ demo.lookup 0x01 ≠ none ∧ demo.lookup 0xFC = none := by decide

theorem witness_UnregisterIsIdempotent :
    (broken demo).fault ≠ none ∧ demo.fault = none ∧ demo.lookup 0x00 = none := by decide

theorem witness_QueryReadsTheTable :
    (broken demo).fault ≠ none ∧ demo.fault = none ∧ demo.lookup 0xFF = none ∧ demo.lookup 0x02 = some 1 := by decide

theorem witness_RawSendTransmitsUnchanged : (broken demo).fault ≠ none ∧ demo.fault = none := by decide

theorem witness_OnlyRegistrationMovesTheTable :
    (∃ t, exec (.register 0x03 1) demo = .next t ∧ t.lookup 0x03 ≠ demo.lookup 0x03) ∧
      ∃ t, exec (.unregister 0x01) demo = .next t ∧ t.lookup 0x01 ≠ demo.lookup 0x01 :=
  ⟨⟨_, rfl, by decide⟩, _, rfl, by decide⟩

/-- Slot 0 of `demo` is full, slot 1 has room for one more. -/
theorem witness_SendChecksThenIssues :
    (broken demo).fault ≠ none ∧ demo.fault = none ∧ demo.cfg.numEndpoints ≤ 2 ∧ 1 < demo.cfg.numEndpoints ∧
      ((0x04 : Byte) ≠ 0x02 ∧ (0x04 : Byte) ≠ 0x03) ∧ demo.lookup 0x01 ≠ some 1 ∧ demo.lookup 0x01 = some 0 ∧
      demo.cfg.maxParams < (List.replicate 58 (0 : Byte)).length ∧
      (List.replicate 57 (0 : Byte)).length ≤ demo.cfg.maxParams ∧
      (demo.queueOf 0).length = demo.cfg.queueDepth ∧ (demo.queueOf 1).length < demo.cfg.queueDepth := by decide

theorem witness_FreeTagIsTheFirstUnused :
    (roomy.Inv ∧ 1 < roomy.cfg.numEndpoints ∧ (roomy.queueOf 1).length < roomy.cfg.queueDepth) ∧
      roomy.nextTag ∉ roomy.pending :=
  ⟨⟨roomy_inv, by decide⟩, by decide⟩

theorem witness_ExpireRemovesItsRequest :
    (broken demo).fault ≠ none ∧ demo.fault = none ∧ (3 : Tag) ∉ demo.pending ∧ demo.QueueInv ∧
      demo.queueOf 0 = [5] ++ 6 :: [] ∧ demo.queueOf 0 = [] ++ 5 :: [6] :=
  ⟨by decide, rfl, by decide, demo_inv.queues, rfl, rfl⟩

theorem witness_CompletionsAreNeverRepeated :
    demo.Inv ∧ (∃ u, exec (.expire 6) demo = .next u ∧ Output.complete 0 6 .timeout ∈ newOutputs demo u) ∧
      ∃ u, exec (.response 0x01 []) demo = .next u ∧ Output.complete 0 5 (.response []) ∈ newOutputs demo u :=
  ⟨demo_inv, ⟨_, rfl, by decide⟩, _, rfl, by decide⟩

theorem witness_LateResponseMissesItsRequest :
    demo.Inv ∧ demo.fault = none ∧ (demo.lookup 0x01 = some 0 ∧ demo.queueOf 0 = 5 :: 6 :: []) ∧
      demo.lookup 0x02 = some 1 ∧ demo.queueOf 1 = 7 :: [] :=
  ⟨demo_inv, by decide⟩

theorem witness_EitherOrderResolvesOnce :
    demo.Inv ∧ demo.fault = none ∧ demo.lookup 0x01 = some 0 ∧ demo.queueOf 0 = 5 :: [6] := ⟨demo_inv, by decide⟩

theorem witness_AckNeedsTheNewIdRegistered :
    demo.fault = none ∧ (0xFC : Byte) ≤ 0xFC ∧ 1 < demo.cfg.numEndpoints ∧ demo.lookup 0xFC = none ∧
      demo.queueOf 1 = 7 :: [] := by decide

theorem witness_RefusalsChangeNothing :
    Answer.badSlot.isRefusal = true ∧
      ∃ t, exec (.register 0x03 2) demo = .next t ∧ Output.result .badSlot ∈ newOutputs demo t :=
  ⟨rfl, _, rfl, by decide⟩

theorem witness_ArmedTimersMatchPendingKept :
    ∃ s t, s.Inv ∧ s.TimersMatch ∧ step s = .next t ∧ armedTimers s.trace ≠ armedTimers t.trace :=
  ⟨{ demo with inbox := [[0x01, 0x00, 0x06]] }, _,
    ⟨demo_inv.valid, demo_inv.sized, demo_inv.framer, demo_inv.table, demo_inv.queues⟩, .refl _, rfl, by decide⟩

theorem witness_HonestExpiryTimesOut :
    demo.Inv ∧ demo.TimersMatch ∧ demo.fault = none ∧ (6 : Tag) ∈ armedTimers demo.trace :=
  ⟨demo_inv, .refl _, rfl, by decide⟩

theorem witness_OnlySendOverflowFaults :
    (demo.fault = none ∧ 0 < demo.cfg.numEndpoints ∧ ((0x02 : Byte) = 0x02 ∨ (0x02 : Byte) = 0x03) ∧
      demo.lookup 0x01 = some 0 ∧ demo.cfg.maxParams < (List.replicate 58 (0 : Byte)).length) ∧
    fieldOf State.fault (exec (.send 0 0x01 0x02 0x38 (List.replicate 58 0)) demo) = some (some .encodeOverflow) := by
  decide

theorem witness_FaultedBlockOnlyAnswers : (broken demo).fault ≠ none ∧ isTransaction (.query 0) = true ∧
    isTransaction (.rx 0) = false ∧ Instr.rx 0 ≠ .reset := by decide

theorem witness_OneResultPerTransaction :
    (∃ t, exec (.rawsend []) demo = .next t) ∧ isTransaction (.rawsend []) = true ∧
      (∃ t, exec (.expire 5) demo = .next t) ∧ isTransaction (.expire 5) = false :=
  ⟨⟨_, rfl⟩, rfl, ⟨_, rfl⟩, rfl⟩

theorem witness_InvariantsHoldAtReset : ({} : Config).Valid ∧ ({ rxCapacity := 6 } : Config).Valid := by decide

theorem witness_EveryStepKeepsTheInvariants :
    ∃ s t, s.Inv ∧ step s = .next t ∧ t.queue ≠ s.queue :=
  ⟨{ demo with inbox := [[0x01, 0x00, 0x05]] }, _,
    ⟨demo_inv.valid, demo_inv.sized, demo_inv.framer, demo_inv.table, demo_inv.queues⟩, rfl, by decide⟩

theorem witness_EveryInstructionCompletes : demo.Inv ∧ roomy.Inv := ⟨demo_inv, roomy_inv⟩

theorem witness_OnlyBytesMoveTheFramer :
    (∃ t, exec (.response 0x01 []) demo = .next t) ∧ (∀ b, Instr.response 0x01 [] ≠ .rx b) ∧
      Instr.response 0x01 [] ≠ .reset :=
  ⟨⟨_, rfl⟩, by intro b; simp, by decide⟩

theorem witness_WhoWritesTheQueues :
    (∃ t, exec (.rx 0xFC) (receiving .body [0xFF, 0xFF, 0x01, 0x02, 0x00] 1) = .next t ∧
      t.queue ≠ (receiving .body [0xFF, 0xFF, 0x01, 0x02, 0x00] 1).queue) ∧
    ∃ t, exec (.send 1 0x02 0x02 0x38 []) roomy = .next t ∧ t.nextTag ≠ roomy.nextTag :=
  ⟨⟨_, rfl, by decide⟩, _, rfl, by decide⟩

theorem witness_ParametersAndInputsUntouched :
    (∃ t, exec (.rx 0xFF) demo = .next t) ∧ Instr.rx 0xFF ≠ .reset := ⟨⟨_, rfl⟩, by decide⟩

theorem witness_AnglesAreClampedThenFloored :
    f64 (f64 0 + f64 0) ≤ 0 ∧ 1023 ≤ f64 (f64 (f64 (f64 200 + f64 0) * 1024) / 200) ∧
      (let x := f64 (f64 (f64 (f64 100 + f64 0) * 1024) / 200); 0 ≤ x ∧ x < 1023) ∧ 1023 ≤ 1023 ∧ 65535 < 65536 := by
  decide +kernel

theorem witness_OffsetsReadBack :
    (-2000 : Int) ≤ -2000 ∧ (-2000 : Int) ≤ 2000 ∧ (2000 : Int) ≤ 2000 ∧ (-2001 : Int) < -2000 ∧ (2000 : Int) < 2001 := by
  decide

theorem witness_AwaitEndsAtItsCompletion :
    demo.Inv ∧ (∃ u, exec (.expire 6) demo = .next u ∧ Output.complete 0 6 .timeout ∈ newOutputs demo u) ∧
      ∃ u, exec (.query 1) demo = .next u ∧ ∀ slot r, Output.complete slot 6 r ∉ newOutputs demo u :=
  ⟨demo_inv, ⟨_, rfl, by decide⟩, _, rfl, by
    intro slot r
    rw [show newOutputs demo _ = [.result (.registered 0)] by decide]
    simp⟩

/-- Slot 1 of `roomy` has room, and up to 57 parameter bytes are accepted. -/
theorem roomy_accepts {n : Nat} (h : n ≤ 57) : roomy.Accepts 1 0x02 n :=
  ⟨roomy_inv, rfl, by decide, by decide, h, by decide⟩

theorem witness_OperationsSendAwaitAndEnd :
    roomy.Accepts 1 0x02 1 ∧ roomy.Accepts 1 0x02 2 ∧ roomy.Accepts 1 0x02 57 ∧
      roomy.Accepts 1 0x02 (2 + ([0x01, 0xF4] : List Byte).length) ∧ encOffset (-150) = some 0x8096 ∧
      encOffset 2001 = none ∧
      (demo.fault = none ∧ 1 < demo.cfg.numEndpoints ∧ (0xFC : Byte) ≤ 0xFC ∧ demo.lookup 0xFC = none ∧
        demo.lookup 0x02 = some 1 ∧ demo.cfg.maxParams < (List.replicate 58 (0 : Byte)).length) :=
  ⟨roomy_accepts (by decide), roomy_accepts (by decide), roomy_accepts (by decide), roomy_accepts (by decide),
    by decide⟩

theorem witness_FlashIdRegistersBeforeAwaiting :
    (demo.fault = none ∧ demo.lookup 0x02 = some 1) ∧ roomy.Accepts 1 0x02 1 ∧ roomy.lookup 0xFC = none ∧
      (0xFC : Byte) ≤ 0xFC ∧ roomy.lookup 0x01 ≠ none :=
  ⟨by decide, roomy_accepts (by decide), by decide⟩

end Sys2Proof.Tests
end

