-- ==== Sys2Proof/Proofs/State.lean ====
section
/-! The reset state of 10_state.md R28. -/

namespace Sys2Proof.Machine

/-- 10_state.md R22, R28: no id is registered at reset. -/
@[simp] theorem lookup_resetWith (c : Config) (id : Byte) : (State.resetWith c).lookup id = none := by
  simp [State.lookup, State.resetWith]

/-- 10_state.md R23, R28: every queue is empty at reset, a slot that does not exist included (log entry 17). -/
@[simp] theorem queueOf_resetWith (c : Config) (slot : Nat) : (State.resetWith c).queueOf slot = [] :=
  List.getElem?_getD_replicate_default_eq [] c.numEndpoints slot

/-- Settles O48: the table and the queues by their lemmas, every other field as `State.resetWith` sets it. -/
theorem resetValuesAreTheSpecs : Obligations.ResetValuesAreTheSpecs := by
  intro c
  exact ⟨rfl, rfl, rfl, List.length_replicate, lookup_resetWith c, List.length_replicate, queueOf_resetWith c,
    rfl, rfl, rfl, rfl⟩

end Sys2Proof.Machine
end

