-- ==== Sys2Proof/Proofs/Codec.lean ====
section
/-! The codec of 40_codec.md: the checksum in its three forms, the body of a frame, what `encode` builds and the
tests of `decode`. -/

namespace Sys2Proof

/-! ### The checksum, R56 -/

theorem checksum_toNat (xs : List Byte) : (checksum xs).toNat = 255 - (xs.map BitVec.toNat).sum % 256 := by
  rw [checksum, BitVec.toNat_not, sum8_toNat]

theorem checksum_eq_sub_sum8 (xs : List Byte) : checksum xs = 0xFF - sum8 xs :=
  eq_sub_of_add_eq' (checksum_add_sum8 xs)

theorem checksum_eq_xor_sum8 (xs : List Byte) : checksum xs = 0xFF ^^^ sum8 xs :=
  BitVec.allOnes_xor.symm

theorem checksum_eq_ff_of_sum_mod {xs : List Byte} (h : (xs.map BitVec.toNat).sum % 256 = 0) :
    checksum xs = 0xFF :=
  BitVec.eq_of_toNat_eq (by rw [checksum_toNat, h]; rfl)

/-! ### Frames, 30_encoding.md R46 -/

/-- What a frame holds between the preamble and the checksum: id, length, command, data. -/
def frameBody (id cmd : Byte) (data : List Byte) : List Byte :=
  id :: BitVec.ofNat 8 (data.length + 2) :: cmd :: data

theorem wireFrame_eq_append (id cmd : Byte) (data : List Byte) :
    wireFrame id cmd data =
      [preambleByte, preambleByte] ++ frameBody id cmd data ++ [checksum (frameBody id cmd data)] := rfl

/-- The body is the range that R56 and R59 sum, from the id to the last byte before the checksum. -/
theorem slice_wireFrame (id cmd : Byte) (data : List Byte) :
    slice (wireFrame id cmd data) 2 ((wireFrame id cmd data).length - 1) = frameBody id cmd data := by
  simp [slice, wireFrame, frameBody]

@[simp] theorem getLast?_wireFrame (id cmd : Byte) (data : List Byte) :
    (wireFrame id cmd data).getLast? = some (checksum (frameBody id cmd data)) := by
  rw [wireFrame_eq_append, List.getLast?_concat]

/-- Settles O1: the three forms and the corner cases by their lemmas; the last byte of a frame is the checksum of
its body, which is the slice that is summed. -/
theorem checksumComplementsTheSum : Obligations.ChecksumComplementsTheSum := by
  refine ⟨checksum_toNat, fun xs => ⟨checksum_eq_sub_sum8 xs, checksum_eq_xor_sum8 xs⟩, rfl,
    fun _ => checksum_eq_ff_of_sum_mod, rfl, rfl, rfl, fun id cmd data => ?_⟩
  rw [slice_wireFrame, getLast?_wireFrame]

/-! ### `decode`, R59 -/

section Decode

variable {f : List Byte}

theorem decodeFrame_notAFrame
    (h : f.length < 7 ∨ f.getD 0 0 ≠ 0xFF ∨ f.getD 1 0 ≠ 0xFF ∨ f.length ≠ 4 + (f.getD 3 0).toNat) :
    decodeFrame f = .error .notAFrame := by
  unfold decodeFrame
  split
  case isTrue => rfl
  case isFalse hp =>
    have hlen : f.length ≠ 4 + (f.getD 3 0).toNat := by
      rcases h with h | h | h | h
      · exact absurd (.inl h) hp
      · exact absurd (.inr (.inl h)) hp
      · exact absurd (.inr (.inr h)) hp
      · exact h
    exact if_pos hlen

/-- After the tests of preamble and length only the checksum decides. -/
theorem decodeFrame_of_shape (h7 : 7 ≤ f.length) (h0 : f.getD 0 0 = 0xFF) (h1 : f.getD 1 0 = 0xFF)
    (hlen : f.length = 4 + (f.getD 3 0).toNat) :
    decodeFrame f =
      if checksum (slice f 2 (f.length - 1)) ≠ f.getD (f.length - 1) 0 then .error .checksumMismatch
      else .ok (f.getD 2 0, f.getD 4 0, f.getD 5 0, slice f 6 (f.length - 1)) := by
  have hp : ¬ (f.length < 7 ∨ f.getD 0 0 ≠ preambleByte ∨ f.getD 1 0 ≠ preambleByte) := by
    rintro (h | h | h)
    · exact absurd h7 (Nat.not_le.2 h)
    · exact h h0
    · exact h h1
  rw [decodeFrame, if_neg hp, if_neg (not_not.2 hlen)]

end Decode

/-- Settles O3: one lemma for `NotAFrame` and one for what follows those tests; the address byte exists because
`7 ≤ 4 + f[3]`. -/
theorem decodeFrameTestsInOrder : Obligations.DecodeFrameTestsInOrder := by
  refine ⟨fun f => ⟨decodeFrame_notAFrame, fun h7 h0 h1 hlen => ⟨fun hc => ?_, fun hc => ⟨by omega, ?_⟩⟩⟩, rfl⟩
  · rw [decodeFrame_of_shape h7 h0 h1 hlen, if_pos hc]
  · rw [decodeFrame_of_shape h7 h0 h1 hlen, if_neg (not_not.2 hc)]

/-! ### `encode`, R58 -/

theorem encodeFrame_overflow {n : Nat} {id cmd addr : Byte} {params : List Byte} (h : n < params.length) :
    encodeFrame n id cmd addr params = .error .encodeOverflow := if_pos h

/-- Settles O2: an accepted request is the frame of `encodeFrame_ok`, whose length byte does not wrap up to 252
parameters. -/
theorem encodeBuildsTheFrame : Obligations.EncodeBuildsTheFrame := by
  refine ⟨fun n id cmd addr params hn => ⟨encodeFrame_overflow, fun hp => ?_⟩, rfl, rfl, rfl⟩
  have hlen : (BitVec.ofNat 8 (params.length + 3)).toNat = params.length + 3 := by
    rw [BitVec.toNat_ofNat, Nat.mod_eq_of_lt (by omega)]
  have hsize : (wireFrame id cmd (addr :: params)).length = params.length + 7 := wireFrame_length ..
  exact ⟨_, _, hlen, Machine.encodeFrame_ok hp, wireFrame_eq_append .., hsize, by omega⟩

end Sys2Proof
end

