-- ==== Sys2Proof/Proofs/Framer.lean ====
section
/-! The framer's transitions of 41_framer.md R63 to R67: SEEKING under both policies, HEADER, BODY, and the end of a
frame. -/

namespace Sys2Proof

/-- A slice that ends inside the first `n` bytes reads only those. -/
theorem slice_take (xs : List Byte) {k m n : Nat} (h : m ≤ n) : slice (xs.take n) k m = slice xs k m := by
  rw [slice, List.take_take, Nat.min_eq_left h, slice]

end Sys2Proof

namespace Sys2Proof.Machine

variable {s : State} (b : Byte)

/-! ### RX, by the state of the framer (R61) -/

theorem exec_rx_lookback (hf : s.fault = none) (hs : s.fstate = .seeking) (hp : s.cfg.syncPolicy = .lookback) :
    exec (.rx b) s = .next (s.seekLookback b) := by
  rw [exec_rx_running b hf, receive_lookback b hs hp]

theorem exec_rx_pairReset (hf : s.fault = none) (hs : s.fstate = .seeking) (hp : s.cfg.syncPolicy = .pairReset) :
    exec (.rx b) s = .next (s.seekPair b) := by
  rw [exec_rx_running b hf, receive_pairReset b hs hp]

theorem exec_rx_header (hf : s.fault = none) (hs : s.fstate = .header) :
    exec (.rx b) s = .next (s.header b) := by
  rw [exec_rx_running b hf, receive_header b hs]

theorem exec_rx_body (hf : s.fault = none) (hs : s.fstate = .body) : exec (.rx b) s = .next (s.body b) := by
  rw [exec_rx_running b hf, receive_body b hs]

/-! ### SEEKING, R63 and R64 -/

/-- A byte kept as the first of a pair leaves the framer in SEEKING. -/
theorem keepPreamble_seeking (i : Nat) (hs : s.fstate = .seeking) :
    s.keepPreamble i b .seeking = { s with rxbuf := s.rxbuf.set i b, idx := i + 1 } := by
  rw [State.keepPreamble, ← hs]

/-- Settles O18: the three transitions of SEEKING under LOOKBACK. -/
theorem seekingUnderLookback : Obligations.SeekingUnderLookback := by
  intro s b hf hs hp
  rw [exec_rx_lookback b hf hs hp]
  refine ⟨?_, ?_, fun hb => ?_⟩
  · rintro rfl hi
    exact congrArg _ (seekLookback_hit hi)
  · rintro rfl hi
    exact congrArg _ ((seekLookback_lone hi).trans (keepPreamble_seeking _ 0 hs))
  · exact congrArg _ (seekLookback_other hb)

/-- Settles O19: the three transitions of SEEKING under PAIR_RESET. -/
theorem seekingUnderPairReset : Obligations.SeekingUnderPairReset := by
  intro s b hf hs hp
  rw [exec_rx_pairReset b hf hs hp]
  refine ⟨fun hi => ?_, ?_, fun hi hm => ?_⟩
  · exact congrArg _ ((seekPair_first b hi).trans (keepPreamble_seeking b 0 hs))
  · rintro hi ⟨h0, rfl⟩
    exact congrArg _ (seekPair_hit hi h0)
  · exact congrArg _ (seekPair_miss hi hm)

/-! ### `store`, R62 -/

theorem store_of_room (h : s.idx < s.cfg.rxCapacity) :
    s.store b = { s with rxbuf := s.rxbuf.set s.idx b, idx := s.idx + 1 } := by
  rw [State.store, if_pos h]

theorem store_of_full (h : s.cfg.rxCapacity ≤ s.idx) : s.store b = { s with idx := s.idx + 1 } := by
  rw [State.store, if_neg (Nat.not_lt.2 h)]

/-! ### HEADER, R65 -/

/-- A length byte of 0 ends the frame, which the smallest buffer holds up to here, as `LengthError`. -/
theorem header_zero_logs (h : s.Inv) (hi : s.idx = 3) :
    s.header 0 = ({ s with rxbuf := s.rxbuf.set 3 0 }.toSeeking).log .lengthError (s.byteAt 2) 0 := by
  have hmin : 6 ≤ s.cfg.rxCapacity := h.valid.1
  have hcap : s.idx + 1 ≤ s.cfg.rxCapacity := by omega
  have hlen : (s.store 0).byteAt 3 = 0 := hi ▸ byteAt_store_same 0 hcap h.sized.1
  rw [header_zero hi, complete_lengthError hcap (by rw [hlen]; decide), hlen, byteAt_store 0 (by omega),
    store_of_room 0 hcap, hi]
  rfl

/-- Settles O20: the buffer holds at least six bytes, so id and length are stored. -/
theorem headerTakesIdAndLength : Obligations.HeaderTakesIdAndLength := by
  intro s b hinv hf hs
  have hcap : 6 ≤ s.cfg.rxCapacity := hinv.valid.1
  rw [exec_rx_header b hf hs]
  refine ⟨fun hi => ?_, fun hi hb => ?_, ?_⟩
  · rw [header_id b (by omega), store_of_room b (by omega), hi]
  · rw [header_length b hi hb, store_of_room b (by omega), hi]
  · rintro hi rfl
    exact congrArg _ (header_zero_logs hinv hi)

/-! ### BODY, R66 -/

/-- Settles O21: `body_more` with and without room for the byte, and `body_last`. -/
theorem bodyCountsDown : Obligations.BodyCountsDown := by
  intro s b hf hs
  rw [exec_rx_body b hf hs]
  refine ⟨fun hr hc => ?_, fun hr hc => ?_, fun hr => ?_⟩
  · rw [body_more b hr, store_of_room b hc]
  · rw [body_more b hr, store_of_full b hc]
  · exact ⟨congrArg _ (body_last b hr), complete_fstate, complete_idx, complete_remaining⟩

/-! ### The end of a frame, R67 -/

/-- INV3, for a framer in BODY. -/
theorem State.FramerInv.of_body (h : s.FramerInv) (hs : s.fstate = .body) :
    4 ≤ s.idx ∧ s.idx ≤ 258 ∧ 1 ≤ s.remaining ∧ s.remaining ≤ 255 ∧
      s.idx + s.remaining = 4 + (s.byteAt 3).toNat := by
  rw [State.FramerInv, hs] at h
  exact h

/-- The header bytes stand in the buffer before the last byte of a body is stored behind them. -/
theorem byteAt_lastStored {i : Nat} (h : i ≠ s.idx) : (s.lastStored b).byteAt i = s.byteAt i :=
  byteAt_store b h

section LastByte

variable (hc : s.idx < s.cfg.rxCapacity) (hz : s.rxbuf.length = s.cfg.rxCapacity)
include hc hz

/-- A frame that the buffer holds is the bytes stored before, and the last one. -/
theorem take_lastStored : (s.lastStored b).rxbuf.take (s.lastStored b).idx = s.rxbuf.take s.idx ++ [b] :=
  take_store b hc hz

theorem last_lastStored : (s.lastStored b).byteAt ((s.lastStored b).idx - 1) = b :=
  byteAt_store_same b hc hz

/-- What the checksum of a frame sums, read from the buffer and from the frame. -/
theorem slice_lastStored :
    slice (s.lastStored b).rxbuf 2 ((s.lastStored b).idx - 1) =
      slice (s.rxbuf.take s.idx ++ [b]) 2 ((s.rxbuf.take s.idx ++ [b]).length - 1) := by
  have hlen : (s.rxbuf.take s.idx ++ [b]).length = (s.lastStored b).idx := by
    rw [List.length_append, List.length_take_of_le (hz ▸ hc.le)]
    rfl
  rw [hlen, ← take_lastStored b hc hz, slice_take _ (Nat.sub_le ..)]

end LastByte

/-- Settles O22: by INV3 a frame that ends in BODY has `4 + L` bytes, and `lastStored` holds them, so each clause is
the lemma of one verdict. -/
theorem completionTestsInOrder : Obligations.CompletionTestsInOrder := by
  intro s b hinv hf
  refine ⟨fun hs hr => ?_, ?_⟩
  · intro id len f t
    obtain ⟨hi4, -, -, -, hsum⟩ := hinv.framer.of_body hs
    have hn : (s.lastStored b).idx = 4 + len.toNat := by rw [← hsum, hr]; rfl
    have hid : (s.lastStored b).byteAt 2 = id := byteAt_lastStored b (by omega)
    have hlen : (s.lastStored b).byteAt 3 = len := byteAt_lastStored b (by omega)
    rw [exec_rx_body b hf hs, body_last b hr]
    refine ⟨fun hover => ?_, fun hfit hl => ?_, fun hfit hl => ?_⟩
    · rw [complete_overflow (hn ▸ hover), hid, hlen]
      rfl
    · rw [complete_lengthError (hn ▸ hfit) (hlen ▸ hl), hid, hlen]
      rfl
    · have hcap : (s.lastStored b).idx ≤ s.cfg.rxCapacity := hn ▸ hfit
      have hl2 : ¬ (s.lastStored b).byteAt 3 < 2 := hlen ▸ Nat.not_lt.2 hl
      have hslice := slice_lastStored b hcap hinv.sized.1
      have hlast := last_lastStored b hcap hinv.sized.1
      refine ⟨fun hbad => ?_, fun hgood => ?_⟩
      · rw [complete_checksumMismatch hcap hl2 (by rw [hslice, hlast]; exact hbad), hid, hlen]
        rfl
      · rw [complete_accepted hcap hl2 (by rw [hslice, hlast]; exact hgood),
          take_lastStored b hcap hinv.sized.1]
        rfl
  · rintro hs hi rfl
    exact (exec_rx_header 0 hf hs).trans (congrArg _ (header_zero_logs hinv hi))

end Sys2Proof.Machine
end

