-- ==== Sys2Proof/Proofs/Demux.lean ====
section
/-! The demultiplexer of 42_demux.md R71 to R77: classification by the command byte, dispatch by the id, the
transactions on the registration table and the raw transmit path. -/

namespace Sys2Proof.Machine

variable {s : State}

/-! ### Classification, R71 -/

section Classify

variable {f : List Byte}

theorem classify_echo (h : f.getD 4 0 = cmdRead ∨ f.getD 4 0 = cmdWrite) : s.classify f = s := if_pos h

theorem classify_response (h : f.getD 4 0 = cmdResponse ∨ f.getD 4 0 = cmdResponseAlt) :
    s.classify f = s.dispatch (f.getD 2 0) (f.getD 4 0) (slice f 5 (f.length - 1)) := by
  have hecho : ¬ (f.getD 4 0 = cmdRead ∨ f.getD 4 0 = cmdWrite) := by
    rcases h with h | h <;> rw [h] <;> decide
  exact (if_neg hecho).trans (if_pos h)

theorem classify_unknown (h : cmdWrite < f.getD 4 0) :
    s.classify f = s.log .unknownCommand (f.getD 2 0) (f.getD 4 0) := by
  have hne {c : Byte} (hc : ¬ cmdWrite < c) : f.getD 4 0 ≠ c := fun e => hc (e ▸ h)
  exact (if_neg (not_or.2 ⟨hne (by decide), hne (by decide)⟩)).trans
    (if_neg (not_or.2 ⟨hne (by decide), hne (by decide)⟩))

end Classify

/-- Settles O14: one lemma per branch of `classify`. -/
theorem classifyByCommand : Obligations.ClassifyByCommand :=
  fun _ _ => ⟨classify_echo, classify_response, classify_unknown⟩

/-! ### Dispatch, R72 and R73 -/

theorem payloadOf_five (data : List Byte) (h : s.cfg.payloadStart = .five) : payloadOf s data = data := by
  rw [payloadOf, h]
  rfl

theorem payloadOf_six (data : List Byte) (h : s.cfg.payloadStart = .six) : payloadOf s data = data.drop 1 := by
  rw [payloadOf, h]
  rfl

theorem dispatch_unregistered {id : Byte} (cmd : Byte) (data : List Byte) (h : s.lookup id = none) :
    s.dispatch id cmd data = s.log .unknownId id cmd := by
  rw [State.dispatch, h]

theorem dispatch_registered {id : Byte} {slot : Nat} (cmd : Byte) (data : List Byte) (h : s.lookup id = some slot) :
    s.dispatch id cmd data = s.deliver slot (payloadOf s data) id := by
  rw [State.dispatch, h]

theorem exec_response_running (id : Byte) (data : List Byte) (hf : s.fault = none) :
    exec (.response id data) s = .next (s.dispatch id cmdResponse data) := whileRunning_running hf

theorem exec_responseAlt_running (id : Byte) (data : List Byte) (hf : s.fault = none) :
    exec (.responseAlt id data) s = .next (s.dispatch id cmdResponseAlt data) := whileRunning_running hf

/-- RESPONSE and RESPONSE_ALT for a registered id: the command byte no longer matters. -/
theorem exec_response_registered {id : Byte} {data : List Byte} {slot : Nat} {i : Instr}
    (hi : i ∈ [Instr.response id data, Instr.responseAlt id data]) (hf : s.fault = none)
    (hl : s.lookup id = some slot) : exec i s = .next (s.deliver slot (payloadOf s data) id) := by
  rcases List.mem_pair.1 hi with rfl | rfl
  · rw [exec_response_running id data hf, dispatch_registered _ data hl]
  · rw [exec_responseAlt_running id data hf, dispatch_registered _ data hl]

/-- Settles O16: a free id by `dispatch_unregistered`; a bound one by `exec_response_registered`, with the payload at
either `PAYLOAD_START`. -/
theorem responsesAreDispatchedById : Obligations.ResponsesAreDispatchedById := by
  intro s id data hf
  refine ⟨fun hl => ⟨?_, ?_⟩, fun slot hl i hi => ⟨fun hp => ?_, fun hp => ?_⟩⟩
  · rw [exec_response_running id data hf, dispatch_unregistered _ data hl]
    rfl
  · rw [exec_responseAlt_running id data hf, dispatch_unregistered _ data hl]
    rfl
  · rw [exec_response_registered hi hf hl, payloadOf_five data hp]
  · rw [exec_response_registered hi hf hl, payloadOf_six data hp]

/-! ### Host transactions while faulted, 60_exceptions.md R99 -/

theorem exec_transaction_faulted {i : Instr} (hi : isTransaction i = true) (hf : s.fault ≠ none) :
    exec i s = .next (s.emit (.result .faulted)) := by
  cases i with
  | register | unregister | query | send | rawsend => exact transaction_faulted hf
  | _ => cases hi

/-! ### REGISTER, R74 -/

section Register

variable {id : Byte} {slot : Nat}

theorem exec_register_badSlot (id : Byte) (hf : s.fault = none) (hs : s.cfg.numEndpoints ≤ slot) :
    exec (.register id slot) s = .next (s.emit (.result .badSlot)) :=
  (transaction_running hf).trans (if_pos (decide_eq_true hs))

/-- With an existing slot, the checks of the id remain. -/
theorem exec_register_slot (id : Byte) (hf : s.fault = none) (hs : slot < s.cfg.numEndpoints) :
    exec (.register id slot) s =
      if idOutOfRange id then answer .idOutOfRange s
      else if (s.lookup id).isSome then answer .alreadyRegistered s
      else answer .ok (s.setEntry id (some slot)) :=
  (transaction_running hf).trans (if_neg (mt of_decide_eq_true (Nat.not_le.2 hs)))

theorem exec_register_idOutOfRange (hf : s.fault = none) (hs : slot < s.cfg.numEndpoints) (hid : maxId < id) :
    exec (.register id slot) s = .next (s.emit (.result .idOutOfRange)) := by
  rw [exec_register_slot id hf hs]
  exact if_pos (decide_eq_true hid)

/-- With an id in range, the table entry decides. -/
theorem exec_register_inRange (hf : s.fault = none) (hs : slot < s.cfg.numEndpoints) (hid : id ≤ maxId) :
    exec (.register id slot) s =
      if (s.lookup id).isSome then answer .alreadyRegistered s
      else answer .ok (s.setEntry id (some slot)) := by
  rw [exec_register_slot id hf hs]
  exact if_neg (mt of_decide_eq_true (BitVec.not_lt.2 hid))

theorem exec_register_taken (hf : s.fault = none) (hs : slot < s.cfg.numEndpoints) (hid : id ≤ maxId)
    (hl : s.lookup id ≠ none) :
    exec (.register id slot) s = .next (s.emit (.result .alreadyRegistered)) := by
  rw [exec_register_inRange hf hs hid]
  exact if_pos (Option.isSome_iff_ne_none.2 hl)

theorem exec_register_free (hf : s.fault = none) (hs : slot < s.cfg.numEndpoints) (hid : id ≤ maxId)
    (hl : s.lookup id = none) :
    exec (.register id slot) s = .next ((s.setEntry id (some slot)).emit (.result .ok)) := by
  rw [exec_register_inRange hf hs hid]
  exact if_neg (by rw [hl]; decide)

end Register

/-- Settles O29: one lemma per check, in their order; the new entry is read back, and no other one moved. -/
theorem registerChecksThenBinds : Obligations.RegisterChecksThenBinds :=
  fun _ id slot => ⟨exec_transaction_faulted rfl, fun hf =>
    ⟨exec_register_badSlot id hf, fun hs =>
      ⟨exec_register_idOutOfRange hf hs, fun hid =>
        ⟨exec_register_taken hf hs hid, fun hl =>
          ⟨_, exec_register_free hf hs hid hl, rfl, lookup_setEntry_same id (some slot),
            fun _ => lookup_setEntry_other (some slot)⟩⟩⟩⟩⟩

/-! ### UNREGISTER, R75 -/

theorem exec_unregister_running (id : Byte) (hf : s.fault = none) :
    exec (.unregister id) s = .next ((s.setEntry id none).emit (.result .ok)) := transaction_running hf

/-- Freeing an id that is free already changes nothing. -/
theorem setEntry_none_of_free {id : Byte} (h : s.lookup id = none) : s.setEntry id none = s := by
  rw [← h, setEntry_lookup]

/-- UNREGISTER of an id without entry only answers. -/
theorem exec_unregister_free {id : Byte} (hf : s.fault = none) (h : s.lookup id = none) :
    exec (.unregister id) s = .next (s.emit (.result .ok)) := by
  rw [exec_unregister_running id hf, setEntry_none_of_free h]

/-- Settles O30: the first UNREGISTER leaves the id free, so the second one only answers. -/
theorem unregisterIsIdempotent : Obligations.UnregisterIsIdempotent := by
  intro s id
  refine ⟨exec_transaction_faulted rfl, fun hf => ?_⟩
  have hfree : ((s.setEntry id none).emit (.result .ok)).lookup id = none := lookup_setEntry_same id none
  refine ⟨_, exec_unregister_running id hf, rfl, hfree, fun _ => lookup_setEntry_other none, fun hl => ?_,
    exec_unregister_free hf hfree⟩
  rw [setEntry_none_of_free hl, State.emit_regtable]

/-! ### QUERY, R76 -/

theorem exec_query_free {id : Byte} (hf : s.fault = none) (hl : s.lookup id = none) :
    exec (.query id) s = .next (s.emit (.result .notRegistered)) := by
  rw [exec, execQuery, transaction_running hf, hl]
  rfl

theorem exec_query_registered {id : Byte} {slot : Nat} (hf : s.fault = none) (hl : s.lookup id = some slot) :
    exec (.query id) s = .next (s.emit (.result (.registered slot))) := by
  rw [exec, execQuery, transaction_running hf, hl]
  rfl

/-- Settles O31: one lemma per kind of entry. -/
theorem queryReadsTheTable : Obligations.QueryReadsTheTable :=
  fun _ _ => ⟨exec_transaction_faulted rfl, fun hf => ⟨exec_query_free hf, fun _ => exec_query_registered hf⟩⟩

/-! ### RAWSEND, R77 -/

theorem exec_rawsend_running (bytes : List Byte) (hf : s.fault = none) :
    exec (.rawsend bytes) s = .next ((s.emit (.tx bytes)).emit (.result .ok)) := transaction_running hf

/-- Settles O32: the two outputs stand behind the earlier ones. -/
theorem rawSendTransmitsUnchanged : Obligations.RawSendTransmitsUnchanged := by
  refine fun s bytes => ⟨exec_transaction_faulted rfl, fun hf => ?_⟩
  rw [exec_rawsend_running bytes hf, State.emit, State.emit_trace, List.append_assoc]
  rfl

end Sys2Proof.Machine
end

