-- ==== Sys2Proof/Proofs/Correlator.lean ====
section
/-! The correlator of 43_correlator.md R79 to R82: the free tag, SEND, the delivery of a response, and EXPIRE. -/

namespace Sys2Proof.Machine

variable {s : State}

/-! ### The free tag, R80 -/

/-- The search ends at once where the first tag is not in use. -/
theorem firstFree_start {used : List Tag} {start : Tag} (k : Nat) (h : start ∉ used) :
    firstFree used (k + 1) start = some start := if_neg h

/-- Settles O35: with room a search over the whole cycle succeeds, and `firstFree_some` says where. -/
theorem freeTagIsTheFirstUnused : Obligations.FreeTagIsTheFirstUnused := by
  refine fun s hinv => ⟨fun slot hs hroom => ?_, firstFree_start 65535⟩
  obtain ⟨tag, htag, -⟩ := freeTag_isSome hinv hs hroom
  obtain ⟨k, hk, rfl, hfree, hused⟩ := firstFree_some htag
  exact ⟨k, hk, htag, hfree, hused⟩

/-! ### EXPIRE, R82 -/

section Expire

variable {t : Tag} {slot : Nat}

theorem exec_expire_unknown (hf : s.fault = none) (h : t ∉ s.pending) : exec (.expire t) s = .next s := by
  rw [exec, execExpire, whileRunning_running hf, State.expireTag, slotOf_none.2 h]

theorem exec_expire_pending (hf : s.fault = none) (hn : s.pending.Nodup) (h : t ∈ s.queueOf slot) :
    exec (.expire t) s =
      .next ((s.setQueue slot ((s.queueOf slot).erase t)).emit (.complete slot t .timeout)) := by
  rw [exec, execExpire, whileRunning_running hf, State.expireTag, slotOf_of_mem hn h]

/-- INV5 within one queue. -/
theorem queueOf_nodup (hn : s.pending.Nodup) (h : t ∈ s.queueOf slot) : (s.queueOf slot).Nodup :=
  (List.nodup_flatten.1 hn).1 _ (queueOf_mem h).2

/-- In a queue of distinct tags, erasing one joins what stands on its two sides. -/
theorem erase_middle {before after : List Tag} (hn : (before ++ t :: after).Nodup) :
    (before ++ t :: after).erase t = before ++ after := by
  have hbefore : t ∉ before := fun hm => List.disjoint_of_nodup_append hn hm List.mem_cons_self
  rw [List.erase_append_right _ hbefore, List.erase_cons_head]

end Expire

/-- Settles O36: distinct tags make the queue that `slotOf` finds, and the place in it, the only ones. -/
theorem expireRemovesItsRequest : Obligations.ExpireRemovesItsRequest := by
  refine fun s t => ⟨whileRunning_faulted, fun hf => ⟨exec_expire_unknown hf, fun slot before after hinv hq => ?_⟩⟩
  have hmem : t ∈ s.queueOf slot := by rw [hq]; exact List.mem_append_cons_self
  have hnodup := queueOf_nodup hinv.1 hmem
  rw [hq] at hnodup
  rw [exec_expire_pending hf hinv.1 hmem, hq, erase_middle hnodup]
  rfl

/-! ### Delivery, R81 -/

section Deliver

variable {slot : Nat} (payload : List Byte) (id : Byte)

theorem deliver_empty (h : s.queueOf slot = []) :
    s.deliver slot payload id = s.log .noPending (slotByte slot) id := by
  rw [State.deliver, h]

theorem deliver_oldest {t : Tag} {rest : List Tag} (h : s.queueOf slot = t :: rest) :
    s.deliver slot payload id = { s with
      queue := s.queue.set slot rest
      trace := s.trace ++ [.clear t, .complete slot t (.response payload)] } := by
  rw [State.deliver, h]
  simp [State.setQueue, State.emit]

end Deliver

theorem slotByte_toNat {slot : Nat} (h : slot < 256) : (slotByte slot).toNat = slot := by
  rw [slotByte, if_pos h, BitVec.toNat_ofNat, Nat.mod_eq_of_lt h]

/-- Settles O17: `deliver_oldest` with the payload at either `PAYLOAD_START`, and `deliver_empty`. -/
theorem responseResolvesTheOldest : Obligations.ResponseResolvesTheOldest := by
  intro s id data slot hf hl i hi
  rw [exec_response_registered hi hf hl]
  refine ⟨fun t rest hq => ⟨fun hp => ?_, fun hp => ?_⟩, fun hq => ⟨slotByte slot, slotByte_toNat, ?_⟩⟩
  · rw [deliver_oldest _ id hq, payloadOf_five data hp]
  · rw [deliver_oldest _ id hq, payloadOf_six data hp]
  · rw [deliver_empty _ id hq]
    rfl

/-! ### SEND, R79 -/

theorem isSendable_iff {cmd : Byte} : isSendable cmd = true ↔ cmd = cmdRead ∨ cmd = cmdWrite := by
  rw [isSendable, Bool.or_eq_true, beq_iff_eq, beq_iff_eq]

/-- What an issued request changes: its slot's queue, the tag counter and the outputs. -/
theorem issue_eq (t : Tag) (slot : Nat) (id cmd addr : Byte) (params : List Byte) :
    s.issue t slot id cmd addr params = .next { s with
      queue := s.queue.set slot (s.queueOf slot ++ [t])
      nextTag := t + 1
      trace := s.trace ++
        [.arm t s.cfg.timeoutMs, .tx (wireFrame id cmd (addr :: params)), .result (.okTag t)] } := by
  simp [State.issue, answer, State.emit, State.advanceTag, State.setQueue]

section Send

variable {slot : Nat} {id cmd : Byte} (addr : Byte) {params : List Byte}

theorem exec_send_badSlot (id cmd : Byte) (params : List Byte) (hf : s.fault = none)
    (hs : s.cfg.numEndpoints ≤ slot) :
    exec (.send slot id cmd addr params) s = .next (s.emit (.result .badSlot)) :=
  (transaction_running hf).trans (if_pos (decide_eq_true hs))

variable (hf : s.fault = none) (hs : slot < s.cfg.numEndpoints)
include hf hs

theorem exec_send_badCommand (id : Byte) (params : List Byte) (hc : ¬ (cmd = cmdRead ∨ cmd = cmdWrite)) :
    exec (.send slot id cmd addr params) s = .next (s.emit (.result .badCommand)) := by
  have hslot : ¬ slotOutOfRange s slot = true := mt of_decide_eq_true (Nat.not_le.2 hs)
  have hcmd : (!isSendable cmd) = true := by rw [Bool.not_eq_true', ← Bool.not_eq_true, isSendable_iff]; exact hc
  rw [exec, execSend, transaction_running hf, if_neg hslot, if_pos hcmd]
  rfl

/-- With an existing slot and a command of Send, the checks of the id, the parameters and the queue remain. -/
theorem exec_send_command (id : Byte) (params : List Byte) (hc : cmd = cmdRead ∨ cmd = cmdWrite) :
    exec (.send slot id cmd addr params) s =
      if s.lookup id ≠ some slot then answer .notRegistered s
      else if tooManyParams s params then answer .encodeOverflow (s.raise .encodeOverflow)
      else if s.cfg.queueDepth ≤ (s.queueOf slot).length then answer .queueFull s
      else s.freeTag.elim (.fault .noFreeTag) (s.issue · slot id cmd addr params) := by
  have hslot : ¬ slotOutOfRange s slot = true := mt of_decide_eq_true (Nat.not_le.2 hs)
  have hcmd : ¬ (!isSendable cmd) = true := by rw [isSendable_iff.2 hc]; decide
  rw [exec, execSend, transaction_running hf, if_neg hslot, if_neg hcmd]
  cases s.freeTag with
  | none => rfl
  | some t => rfl

variable (hc : cmd = cmdRead ∨ cmd = cmdWrite)
include hc

theorem exec_send_notRegistered (params : List Byte) (hl : s.lookup id ≠ some slot) :
    exec (.send slot id cmd addr params) s = .next (s.emit (.result .notRegistered)) := by
  rw [exec_send_command addr hf hs id params hc, if_pos hl]
  rfl

variable (hl : s.lookup id = some slot)
include hl

theorem exec_send_overflow (hp : s.cfg.maxParams < params.length) :
    exec (.send slot id cmd addr params) s =
      .next ((s.raise .encodeOverflow).emit (.result .encodeOverflow)) := by
  rw [exec_send_command addr hf hs id params hc, if_neg (not_not.2 hl)]
  exact if_pos (decide_eq_true hp)

/-- With parameters that fit, the queue decides. -/
theorem exec_send_fits (hp : params.length ≤ s.cfg.maxParams) :
    exec (.send slot id cmd addr params) s =
      if s.cfg.queueDepth ≤ (s.queueOf slot).length then answer .queueFull s
      else s.freeTag.elim (.fault .noFreeTag) (s.issue · slot id cmd addr params) := by
  rw [exec_send_command addr hf hs id params hc, if_neg (not_not.2 hl)]
  exact if_neg (mt of_decide_eq_true (Nat.not_lt.2 hp))

theorem exec_send_queueFull (hp : params.length ≤ s.cfg.maxParams)
    (hq : s.cfg.queueDepth ≤ (s.queueOf slot).length) :
    exec (.send slot id cmd addr params) s = .next (s.emit (.result .queueFull)) := by
  rw [exec_send_fits addr hf hs hc hl hp]
  exact if_pos hq

theorem exec_send_issues {t : Tag} (hp : params.length ≤ s.cfg.maxParams)
    (hq : (s.queueOf slot).length < s.cfg.queueDepth) (ht : s.freeTag = some t) :
    exec (.send slot id cmd addr params) s = s.issue t slot id cmd addr params := by
  rw [exec_send_fits addr hf hs hc hl hp, if_neg (Nat.not_le.2 hq), ht]
  rfl

end Send

/-- Settles O34: one lemma per check, in their order; with room a free tag exists, and the request is issued. -/
theorem sendChecksThenIssues : Obligations.SendChecksThenIssues := by
  intro s slot id cmd addr params
  refine ⟨exec_transaction_faulted rfl, fun hf => ⟨exec_send_badSlot addr id cmd params hf, fun hs =>
    ⟨fun hc => exec_send_badCommand addr hf hs id params (not_or.2 hc), fun hc =>
      ⟨exec_send_notRegistered addr hf hs hc params, fun hl =>
        ⟨exec_send_overflow addr hf hs hc hl, fun hp hinv =>
          ⟨fun hq => exec_send_queueFull addr hf hs hc hl hp hq.ge, fun hq => ?_⟩⟩⟩⟩⟩⟩
  obtain ⟨t, htag, hfree⟩ := freeTag_isSome hinv hs hq
  exact ⟨t, _, htag, hfree, encodeFrame_ok hp, by rw [exec_send_issues addr hf hs hc hl hp hq htag, issue_eq]⟩

end Sys2Proof.Machine
end

