-- ==== Sys2Proof/Proofs/HostSequences.lean ====
section
/-! The host's parameter encodings: two-byte fields (45_host_sequences.md R85). -/

namespace Sys2Proof.Machine

/-! ### Two-byte fields (R85) -/

/-- `unbe16` reads the two bytes as the codec's operand does. -/
theorem unbe16_eq_operand16 (hi lo : Byte) : unbe16 hi lo = (operand16 hi lo).toNat :=
  (operand16_toNat hi lo).symm

/-- The two bytes of a value read back as that value. -/
@[simp] theorem unbe16_bytes (v : BitVec 16) : unbe16 (hiByte v) (loByte v) = v.toNat := by
  rw [unbe16_eq_operand16, operand16_bytes]

/-- Settles O55: the bytes by `hiByte_toNat` and `loByte_toNat`, which read back by `unbe16_bytes`. -/
theorem twoByteFieldsAreBigEndian : Obligations.TwoByteFieldsAreBigEndian :=
  ⟨fun v => ⟨hiByte v, loByte v, rfl, hiByte_toNat v, loByte_toNat v, unbe16_bytes v⟩, fun _ _ => rfl, by decide⟩

end Sys2Proof.Machine
end

