-- ==== Sys2Proof/Proofs/Exceptions.lean ====
section
/-! The sticky fault (60_exceptions.md R98): which effects of an instruction keep it, and which raises it. -/

namespace Sys2Proof.Machine

variable {s t : State} {i : Instr}

/-! ### Raising the fault, R98 -/

/-- Every effect but the overflow of a SEND and the RESET leaves the fault as it was; RESET clears it. -/
theorem Effect.fault_cases (h : Effect i s t) :
    t.fault = s.fault ∨ (i = .reset ∧ t.fault = none) ∨
      ∃ slot id cmd addr params, i = .send slot id cmd addr params ∧ Overflowed s t params := by
  cases h with
  | silent _ h | refused _ _ h | bound _ _ _ _ _ _ _ h | unbound _ _ _ h | sent _ _ _ h =>
    cases h
    exact .inl rfl
  | frame _ _ h _ =>
    obtain ⟨-, -, -, -, hfault, -, -⟩ := h.frame
    exact .inl hfault
  | rx _ _ _ h =>
    obtain ⟨-, -, -, hfault, -, -⟩ := h.frame
    exact .inl hfault
  | timedOut _ _ _ _ h =>
    obtain ⟨-, rfl⟩ := h
    exact .inl rfl
  | overflowed slot id cmd addr params hi _ h => exact .inr (.inr ⟨slot, id, cmd, addr, params, hi, h⟩)
  | issued _ _ _ _ _ _ _ _ h =>
    obtain ⟨-, -, -, -, -, rfl⟩ := h
    exact .inl rfl
  | reset hi h =>
    cases h
    exact .inr (.inl ⟨hi, rfl⟩)

/-- Settles O44: `exec_send_overflow` raises the fault, and by `Effect.fault_cases` no other effect does. -/
theorem onlySendOverflowFaults : Obligations.OnlySendOverflowFaults := by
  refine ⟨fun _ _ _ _ addr _ hf hs hc hl hp => exec_send_overflow addr hf hs hc hl hp, fun i s t hf h ht => ?_⟩
  rcases (exec_cases h).fault_cases with hkept | ⟨-, hcleared⟩ | hoverflow
  · exact absurd (hkept.trans hf) ht
  · exact absurd hcleared ht
  · exact hoverflow

end Sys2Proof.Machine
end

