-- ==== Sys2Proof/Proofs/Reset.lean ====
section
/-! The event RESET (70_reset_and_hazards.md R110): the timers it clears and the table and queues it leaves. -/

namespace Sys2Proof.Machine

variable (s : State)

/-- R110: RESET is accepted in every state, faulted or not. -/
theorem exec_reset : exec .reset s = .next s.resetBlock := rfl

/-- No id is registered after RESET, as at reset. -/
@[simp] theorem lookup_resetBlock (id : Byte) : s.resetBlock.lookup id = none :=
  (lookup_congr (s := State.resetWith s.cfg) rfl id).trans (lookup_resetWith s.cfg id)

/-- Every queue is empty after RESET, as at reset. -/
@[simp] theorem queueOf_resetBlock (slot : Nat) : s.resetBlock.queueOf slot = [] :=
  (queueOf_congr (s := State.resetWith s.cfg) rfl slot).trans (queueOf_resetWith s.cfg slot)

/-- R110's two loops: the outputs clear the pending tags slot by slot, each slot's in queue order. -/
theorem newOutputs_resetBlock :
    newOutputs s s.resetBlock = (s.queue.map (fun q => q.map Output.clear)).flatten := by
  rw [newOutputs, State.resetBlock_trace, List.drop_left, State.pending, List.map_flatten]

/-- Settles O47: the table, the queues and the outputs by their lemmas, every other field as `State.resetBlock`
sets it. -/
theorem resetClearsEverything : Obligations.ResetClearsEverything := by
  intro s
  exact ⟨s.resetBlock, exec_reset s, rfl, rfl, rfl, lookup_resetBlock s, List.length_replicate, queueOf_resetBlock s,
    rfl, rfl, newOutputs_resetBlock s, rfl, rfl⟩

end Sys2Proof.Machine
end

