-- ==== Sys2Proof/Proofs/Other.lean ====
section
/-! The statements about the whole block: the decoder and its inverse, runs of received bytes, what every instruction
changes and leaves alone, the invariants, the timers, and the host's operations. -/

namespace Sys2Proof

/-! ### Frames through the decoder, 30_encoding.md R46, R49 and R50 -/

theorem decode_wireFrame {id cmd : Byte} {data : List Byte} (h : data.length ≤ 253) :
    decode (wireFrame id cmd data) = .ok (wireInstr cmd id data) :=
  (if_pos rfl).trans (decodeWire_wireFrame h)

/-- A frame row is the class of its own command byte: the row, its encoding and its size, in one form for all ten. -/
theorem frameRow_eq_wireInstr {i : Instr} (hi : Machine.isFrame i = true) :
    ∃ id cmd data, i = wireInstr cmd id data ∧ encode i = wireFrame id cmd data ∧
      i.wellFormed = frameDataFits data := by
  cases i with
  | response id data => exact ⟨id, cmdResponse, data, rfl, rfl, rfl⟩
  | responseAlt id data => exact ⟨id, cmdResponseAlt, data, rfl, rfl, rfl⟩
  | read id data => exact ⟨id, cmdRead, data, rfl, rfl, rfl⟩
  | write id data => exact ⟨id, cmdWrite, data, rfl, rfl, rfl⟩
  | unknown04 low id data => exact ⟨id, _, data, (wireInstr_unknown04 low id data).symm, rfl, rfl⟩
  | unknown08 low id data => exact ⟨id, _, data, (wireInstr_unknown08 low id data).symm, rfl, rfl⟩
  | unknown10 low id data => exact ⟨id, _, data, (wireInstr_unknown10 low id data).symm, rfl, rfl⟩
  | unknown20 low id data => exact ⟨id, _, data, (wireInstr_unknown20 low id data).symm, rfl, rfl⟩
  | unknown40 low id data => exact ⟨id, _, data, (wireInstr_unknown40 low id data).symm, rfl, rfl⟩
  | unknown80 low id data => exact ⟨id, _, data, (wireInstr_unknown80 low id data).symm, rfl, rfl⟩
  | _ => cases hi

theorem frameRow_roundTrip {i : Instr} (hi : Machine.isFrame i = true) (hw : i.wellFormed = true) :
    decode (encode i) = .ok i := by
  obtain ⟨id, cmd, data, hrow, henc, hfits⟩ := frameRow_eq_wireInstr hi
  rw [henc, decode_wireFrame (of_decide_eq_true (hfits.symm.trans hw)), hrow]

/-! ### Event packets through the decoder, R51 and R52 -/

/-- A packet that does not begin with `FF` is decoded by its transaction code. -/
theorem decode_event {c : Byte} (ops : List Byte) (h : c ≠ preambleByte) :
    decode (c :: ops) = decodeOperands c.toNat ops := by
  refine (if_neg fun e => h ?_).trans rfl
  cases ops with
  | nil => cases e
  | cons b rest => exact (List.cons.inj e).1

/-- A slot operand in range survives its two bytes. -/
theorem slotOperand_roundTrip {slot : Nat} (h : slotFits slot = true) :
    (operand16 (hiByte (BitVec.ofNat 16 slot)) (loByte (BitVec.ofNat 16 slot))).toNat = slot := by
  rw [operand16_bytes, BitVec.toNat_ofNat, Nat.mod_eq_of_lt (of_decide_eq_true h)]

/-- Settles O6: the frame rows by `frameRow_roundTrip`; an event by its code, its 16-bit operands reading back by
`operand16_bytes`. -/
theorem decodeInvertsEncode : Obligations.DecodeInvertsEncode := by
  intro i hw
  cases i with
  | rx b => exact decode_event [b] (by decide)
  | expire t =>
    refine (decode_event [hiByte t, loByte t] (by decide)).trans ?_
    exact congrArg (fun v => Except.ok (Instr.expire v)) (operand16_bytes t)
  | register id slot =>
    refine (decode_event [id, hiByte (BitVec.ofNat 16 slot), loByte (BitVec.ofNat 16 slot)] (by decide)).trans ?_
    exact congrArg (fun n => Except.ok (Instr.register id n)) (slotOperand_roundTrip hw)
  | unregister id => exact decode_event [id] (by decide)
  | query id => exact decode_event [id] (by decide)
  | send slot id cmd addr params =>
    refine (decode_event
      (hiByte (BitVec.ofNat 16 slot) :: loByte (BitVec.ofNat 16 slot) :: id :: cmd :: addr :: params)
      (by decide)).trans ?_
    exact congrArg (fun n => Except.ok (Instr.send n id cmd addr params)) (slotOperand_roundTrip hw)
  | rawsend bytes => exact decode_event bytes (by decide)
  | reset => exact decode_event [] (by decide)
  | _ => exact frameRow_roundTrip rfl hw

/-! ### What the operand readers accept -/

section Operands

variable {ops : List Byte} {i : Instr}

theorem take0_ok {k : Instr} (h : take0 k ops = .ok i) : ops = [] ∧ i = k := by
  match ops, h with
  | [], h => cases h; exact ⟨rfl, rfl⟩

theorem take1_ok {k : Byte → Instr} (h : take1 k ops = .ok i) : ∃ a, ops = [a] ∧ i = k a := by
  match ops, h with
  | [a], h => cases h; exact ⟨a, rfl, rfl⟩

theorem take2_ok {k : BitVec 16 → Instr} (h : take2 k ops = .ok i) :
    ∃ v, ops = [hiByte v, loByte v] ∧ i = k v := by
  match ops, h with
  | [hi, lo], h => cases h; exact ⟨operand16 hi lo, by simp, rfl⟩

theorem take3_ok {k : Byte → BitVec 16 → Instr} (h : take3 k ops = .ok i) :
    ∃ a v, ops = [a, hiByte v, loByte v] ∧ i = k a v := by
  match ops, h with
  | [a, hi, lo], h => cases h; exact ⟨a, operand16 hi lo, by simp, rfl⟩

theorem takeSend_ok {k : BitVec 16 → Byte → Byte → Byte → List Byte → Instr} (h : takeSend k ops = .ok i) :
    ∃ v id cmd addr params, ops = hiByte v :: loByte v :: id :: cmd :: addr :: params ∧
      i = k v id cmd addr params := by
  match ops, h with
  | hi :: lo :: id :: cmd :: addr :: params, h =>
    cases h
    exact ⟨operand16 hi lo, id, cmd, addr, params, by simp, rfl⟩

/-- A 16-bit operand is a slot number with an encoding. -/
theorem slotFits_toNat (v : BitVec 16) : slotFits v.toNat = true := decide_eq_true v.isLt

/-- What is read as an event is the encoding of that event: one case per transaction code of R52. -/
theorem decodeOperands_ok {code : Nat} (h : decodeOperands code ops = .ok i) :
    encode i = BitVec.ofNat 8 code :: ops ∧ i.wellFormed = true := by
  match code, h with
  | 0, h => obtain ⟨b, rfl, rfl⟩ := take1_ok h; exact ⟨rfl, rfl⟩
  | 1, h => obtain ⟨t, rfl, rfl⟩ := take2_ok h; exact ⟨rfl, rfl⟩
  | 2, h =>
    obtain ⟨id, v, rfl, rfl⟩ := take3_ok (k := fun id slot => .register id slot.toNat) h
    exact ⟨by simp [encode], slotFits_toNat v⟩
  | 3, h => obtain ⟨id, rfl, rfl⟩ := take1_ok h; exact ⟨rfl, rfl⟩
  | 4, h => obtain ⟨id, rfl, rfl⟩ := take1_ok h; exact ⟨rfl, rfl⟩
  | 5, h =>
    obtain ⟨v, id, cmd, addr, params, rfl, rfl⟩ := takeSend_ok (k := fun slot => .send slot.toNat) h
    exact ⟨by simp [encode], slotFits_toNat v⟩
  | 6, h => cases h; exact ⟨rfl, rfl⟩
  | 7, h => obtain ⟨rfl, rfl⟩ := take0_ok h; exact ⟨rfl, rfl⟩

theorem decodeOperands_notAnEvent {code : Nat} (ops : List Byte) (h : 8 ≤ code) :
    decodeOperands code ops = .error .notAnEvent := by
  obtain ⟨k, rfl⟩ := Nat.exists_eq_add_of_le' h
  rfl

end Operands

/-- Settles O7: a frame by `decodeWire_ok` and `encode_wireInstr`, an event by `decodeOperands_ok`. -/
theorem encodeInvertsDecode : Obligations.EncodeInvertsDecode := by
  intro bs i h
  rw [decode] at h
  split at h
  case isTrue =>
    obtain ⟨id, cmd, data, hlen, rfl, rfl⟩ := decodeWire_ok h
    exact ⟨encode_wireInstr cmd id data, (wireInstr_wellFormed cmd id data).trans (decide_eq_true hlen)⟩
  case isFalse =>
    cases bs with
    | nil => cases h
    | cons c ops =>
      obtain ⟨henc, hw⟩ := decodeOperands_ok h
      exact ⟨by rw [henc, BitVec.ofNat_toNat, BitVec.setWidth_eq], hw⟩

/-- Settles O8: the words are evaluated. -/
theorem sampleWordsDecode : Obligations.SampleWordsDecode :=
  ⟨by decide, by decide, by decide, by decide, by decide, by decide, by decide⟩

/-! ### The laws of the codec, 40_codec.md R60 -/

/-- A frame that `encode` built is the wire frame of a request that fits. -/
theorem encodeFrame_eq_ok {n : Nat} {id cmd addr : Byte} {params f : List Byte}
    (h : encodeFrame n id cmd addr params = .ok f) :
    params.length ≤ n ∧ f = wireFrame id cmd (addr :: params) := by
  by_cases hp : params.length ≤ n
  · rw [Machine.encodeFrame_ok hp] at h
    cases h
    exact ⟨hp, rfl⟩
  · rw [encodeFrame_overflow (Nat.not_le.1 hp)] at h
    cases h

/-- LAW1 for a wire frame whose length byte does not wrap. -/
theorem decodeFrame_wireFrame {id cmd addr : Byte} {params : List Byte} (h : params.length ≤ 252) :
    decodeFrame (wireFrame id cmd (addr :: params)) = .ok (id, cmd, addr, params) := by
  have hsize : (wireFrame id cmd (addr :: params)).length = params.length + 7 := wireFrame_length ..
  have hlen : ((wireFrame id cmd (addr :: params)).getD 3 0).toNat = params.length + 3 := by
    rw [wireFrame_eq]
    simp only [List.getD_cons_succ, List.getD_cons_zero, List.length_cons, BitVec.toNat_ofNat]
    omega
  have hlast : (wireFrame id cmd (addr :: params)).getD ((wireFrame id cmd (addr :: params)).length - 1) 0 =
      checksum (frameBody id cmd (addr :: params)) := by
    rw [List.getD_eq_getElem?_getD, ← List.getLast?_eq_getElem?, getLast?_wireFrame, Option.getD_some]
  have hparams : slice (wireFrame id cmd (addr :: params)) 6 ((wireFrame id cmd (addr :: params)).length - 1) =
      params := by
    simp [slice, wireFrame]
  rw [decodeFrame_of_shape (by omega) rfl rfl (by omega), slice_wireFrame, hlast, hparams, if_neg (not_not.2 rfl)]
  rfl

/-- R9 and log entry 9: the length byte of a request that fits does not wrap. -/
theorem maxParams_le_of_valid {c : Config} (h : c.Valid) : c.maxParams ≤ 252 := by
  obtain ⟨-, -, -, -, -, hmax⟩ := h
  exact Nat.sub_le_of_le_add hmax

/-- Settles O4: the frame is the wire frame of `encodeFrame_ok`, which `decodeFrame_wireFrame` reads back; two
requests with one frame are what `decode` reads from it. -/
theorem frameCodecRoundTrip : Obligations.FrameCodecRoundTrip := by
  refine ⟨fun c id cmd addr params hv hp => ?_, fun c id cmd addr id' cmd' addr' params params' f hv h h' => ?_⟩
  · have hfits := hp.trans (maxParams_le_of_valid hv)
    refine ⟨_, Machine.encodeFrame_ok hp, decodeFrame_wireFrame hfits, ?_⟩
    rw [slice_wireFrame, getLast?_wireFrame, checksum]
  · obtain ⟨hp, rfl⟩ := encodeFrame_eq_ok h
    obtain ⟨hp', hf⟩ := encodeFrame_eq_ok h'
    have hread := decodeFrame_wireFrame (id := id) (cmd := cmd) (addr := addr) (hp.trans (maxParams_le_of_valid hv))
    rw [hf, decodeFrame_wireFrame (hp'.trans (maxParams_le_of_valid hv))] at hread
    exact (Except.ok.inj hread).symm

/-- Changing one byte moves the sum by the difference. -/
theorem sum8_set {xs : List Byte} {k : Nat} (b : Byte) (h : k < xs.length) :
    sum8 (xs.set k b) + xs.getD k 0 = sum8 xs + b := by
  induction xs generalizing k with
  | nil => cases h
  | cons x xs ih =>
    cases k with
    | zero => simp only [List.set_cons_zero, List.getD_cons_zero, sum8]; ring
    | succ k =>
      have hk := ih (Nat.lt_of_succ_lt_succ h)
      simp only [List.set_cons_succ, List.getD_cons_succ, sum8]
      rw [add_assoc, hk, add_assoc]

/-- A byte is the checksum of the bytes before it exactly if all of them sum to `FF`. -/
theorem checksum_eq_iff (xs : List Byte) (c : Byte) : checksum xs = c ↔ sum8 (xs ++ [c]) = 0xFF := by
  rw [sum8_append, ← checksum_add_sum8 xs, add_right_inj, eq_comm]
  simp [sum8]

/-- LAW2 as an equivalence: the checksum test passes exactly on the frames whose bytes from the id through the
checksum sum to `FF`. -/
theorem checksumTest_iff {f : List Byte} (h : 3 ≤ f.length) :
    checksum (slice f 2 (f.length - 1)) = f.getD (f.length - 1) 0 ↔ sum8 (f.drop 2) = 0xFF := by
  obtain rfl | ⟨g, c, rfl⟩ := List.eq_nil_or_concat' f
  · cases h
  rw [List.length_append, List.length_singleton] at h
  have hbody : slice (g ++ [c]) 2 ((g ++ [c]).length - 1) = g.drop 2 := by simp [slice]
  have hlast : (g ++ [c]).getD ((g ++ [c]).length - 1) 0 = c := by simp
  rw [hbody, hlast, checksum_eq_iff, List.drop_append_of_le_length (by omega)]

/-- Settles O5: LAW2 is `checksumTest_iff`; a changed byte moves the sum (`sum8_set`), so it is no longer `FF`. -/
theorem checksumDetectsOneChangedByte : Obligations.ChecksumDetectsOneChangedByte := by
  intro f h3 hpass
  have hsum := (checksumTest_iff h3).1 hpass
  refine ⟨by rw [slice, List.take_length, hsum], fun k b hk2 hk hb hpass' => hb ?_⟩
  have hlen : (f.set k b).length = f.length := List.length_set
  rw [← hlen, checksumTest_iff (hlen ▸ h3), List.drop_set, if_neg (Nat.not_lt.2 hk2)] at hpass'
  have hmoved := sum8_set b (xs := f.drop 2) (k := k - 2) (by rw [List.length_drop]; omega)
  have hbyte : (f.drop 2).getD (k - 2) 0 = f.getD k 0 := by
    rw [List.getD_eq_getElem?_getD, List.getElem?_drop, Nat.add_sub_cancel' hk2, List.getD_eq_getElem?_getD]
  rw [hpass', hsum, hbyte, add_right_inj] at hmoved
  exact hmoved.symm

end Sys2Proof

namespace Sys2Proof.Machine

/-! ### The step: packets and events, 00_scope.md R7 and 20_memory.md R39 -/

section Step

variable {s t : State} {p : List Byte} {rest : List (List Byte)}

theorem step_empty (h : s.inbox = []) : step s = .next s := by
  rw [step, State.takePacket, h]

theorem step_event {i : Instr} (h : s.inbox = p :: rest) (hd : decodeEvent p = .ok i) :
    step s = exec i { s with inbox := rest } := by
  simp only [step, State.takePacket, h, hd]

theorem step_notAnEvent {e : DecodeError} (h : s.inbox = p :: rest) (hd : decodeEvent p = .error e) :
    step s = .refused .notAnEvent := by
  simp only [step, State.takePacket, h, hd]

/-- What a completed step did: it waited, or it ran one event on the state without that event's packet. -/
theorem step_cases (h : step s = .next t) :
    t = s ∨ ∃ rest i, exec i { s with inbox := rest } = .next t := by
  cases hin : s.inbox with
  | nil =>
    rw [step_empty hin] at h
    cases h
    exact .inl rfl
  | cons p rest =>
    cases hd : decodeEvent p with
    | ok i => exact .inr ⟨rest, i, step_event hin hd ▸ h⟩
    | error e =>
      rw [step_notAnEvent hin hd] at h
      cases h

end Step

/-- Settles O9: `decodeOperands_notAnEvent`, and the refusal of `step_notAnEvent`. -/
theorem otherCodesAreNoEvents : Obligations.OtherCodesAreNoEvents :=
  fun _ ops hc => ⟨decodeOperands_notAnEvent ops hc, fun _ _ hin =>
    step_notAnEvent hin (decodeOperands_notAnEvent ops hc)⟩

/-- Settles O10: `step_empty` and `step_event`. -/
theorem stepRunsTheDecodedEvent : Obligations.StepRunsTheDecodedEvent :=
  fun _ => ⟨step_empty, fun _ _ _ => step_event⟩

/-! ### The frame rows as instructions, 42_demux.md R71 -/

section Rows

variable {s : State}

/-- A guarded effect that changes nothing leaves a faulted block alone too. -/
theorem whileRunning_self (s : State) : whileRunning s s = .next s := ite_self _

/-- Settles O12: an echo is a guarded effect that changes nothing. -/
theorem echoesAreDropped : Obligations.EchoesAreDropped :=
  fun s _ _ => ⟨whileRunning_self s, whileRunning_self s⟩

/-- The command byte of a row is the row's first command plus its free bits. -/
theorem cmdUnknown04_eq : ∀ low, cmdUnknown04 low = BitVec.ofNat 8 (0x04 + low.toNat) := by decide
theorem cmdUnknown08_eq : ∀ low, cmdUnknown08 low = BitVec.ofNat 8 (0x08 + low.toNat) := by decide
theorem cmdUnknown10_eq : ∀ low, cmdUnknown10 low = BitVec.ofNat 8 (0x10 + low.toNat) := by decide
theorem cmdUnknown20_eq : ∀ low, cmdUnknown20 low = BitVec.ofNat 8 (0x20 + low.toNat) := by decide
theorem cmdUnknown40_eq : ∀ low, cmdUnknown40 low = BitVec.ofNat 8 (0x40 + low.toNat) := by decide
theorem cmdUnknown80_eq : ∀ low, cmdUnknown80 low = BitVec.ofNat 8 (0x80 + low.toNat) := by decide

/-- Settles O13: in a running block each of the six rows logs the command byte it encodes. -/
theorem unknownCommandsAreLogged : Obligations.UnknownCommandsAreLogged := by
  intro s id data hf
  refine ⟨fun low => ?_, fun low => ?_, fun low => ?_, fun low => ?_, fun low => ?_, fun low => ?_⟩
  · rw [← cmdUnknown04_eq]; exact whileRunning_running hf
  · rw [← cmdUnknown08_eq]; exact whileRunning_running hf
  · rw [← cmdUnknown10_eq]; exact whileRunning_running hf
  · rw [← cmdUnknown20_eq]; exact whileRunning_running hf
  · rw [← cmdUnknown40_eq]; exact whileRunning_running hf
  · rw [← cmdUnknown80_eq]; exact whileRunning_running hf

/-- The bytes of a wire frame that `classify` reads: the id, the command, and the data behind them. -/
theorem data_wireFrame (id cmd : Byte) (data : List Byte) :
    slice (wireFrame id cmd data) 5 ((wireFrame id cmd data).length - 1) = data := by
  simp [slice, wireFrame]

theorem classify_wireFrame_response {cmd : Byte} (id : Byte) (data : List Byte)
    (h : cmd = cmdResponse ∨ cmd = cmdResponseAlt) :
    s.classify (wireFrame id cmd data) = s.dispatch id cmd data := by
  refine (classify_response (f := wireFrame id cmd data) h).trans ?_
  rw [data_wireFrame]
  rfl

theorem classify_wireFrame_unknown {cmd : Byte} (id : Byte) (data : List Byte) (h : cmdWrite < cmd) :
    s.classify (wireFrame id cmd data) = s.rejectCommand id cmd :=
  classify_unknown (f := wireFrame id cmd data) h

/-- The rows of UNKNOWN_COMMAND encode commands above WRITE. -/
theorem cmdWrite_lt_unknown :
    (∀ low, cmdWrite < cmdUnknown04 low) ∧ (∀ low, cmdWrite < cmdUnknown08 low) ∧
      (∀ low, cmdWrite < cmdUnknown10 low) ∧ (∀ low, cmdWrite < cmdUnknown20 low) ∧
      (∀ low, cmdWrite < cmdUnknown40 low) ∧ ∀ low, cmdWrite < cmdUnknown80 low := by decide

/-- A frame row runs as `classify` on its own frame. -/
theorem exec_frameRow {i : Instr} (hf : s.fault = none) (hi : isFrame i = true) :
    exec i s = .next (s.classify (encode i)) := by
  obtain ⟨h04, h08, h10, h20, h40, h80⟩ := cmdWrite_lt_unknown
  have hlogs {id cmd : Byte} {data : List Byte} (h : cmdWrite < cmd) :
      whileRunning s (s.rejectCommand id cmd) = .next (s.classify (wireFrame id cmd data)) := by
    rw [whileRunning_running hf, classify_wireFrame_unknown id data h]
  cases i with
  | response id data => rw [exec_response_running id data hf, encode, classify_wireFrame_response id data (.inl rfl)]
  | responseAlt id data =>
    rw [exec_responseAlt_running id data hf, encode, classify_wireFrame_response id data (.inr rfl)]
  | read id data =>
    exact (whileRunning_running hf).trans
      (congrArg _ (classify_echo (f := wireFrame id cmdRead data) (.inl rfl)).symm)
  | write id data =>
    exact (whileRunning_running hf).trans
      (congrArg _ (classify_echo (f := wireFrame id cmdWrite data) (.inr rfl)).symm)
  | unknown04 low => exact hlogs (h04 low)
  | unknown08 low => exact hlogs (h08 low)
  | unknown10 low => exact hlogs (h10 low)
  | unknown20 low => exact hlogs (h20 low)
  | unknown40 low => exact hlogs (h40 low)
  | unknown80 low => exact hlogs (h80 low)
  | _ => cases hi

theorem isFrame_wireInstr (cmd id : Byte) (data : List Byte) : isFrame (wireInstr cmd id data) = true := by
  unfold wireInstr
  repeat' split
  all_goals rfl

/-- Settles O15: an accepted frame is the encoding of its row, on which `exec_frameRow` says what the row does. -/
theorem classifyRunsTheRow : Obligations.ClassifyRunsTheRow := by
  intro s f i hf hd
  obtain ⟨id, cmd, data, -, rfl, rfl⟩ := decodeWire_ok hd
  rw [exec_frameRow hf (isFrame_wireInstr cmd id data), encode_wireInstr]

end Rows

end Sys2Proof.Machine

namespace Sys2Proof.Machine

/-! ### What any instruction does to the table, the queues and the outputs

`exec_cases` lists what an instruction can have done. Here the list is read once per part of the state, and every
statement about all instructions below uses one of these readings. -/

section Effects

variable {i : Instr} {s t : State}

theorem SameFramer.refl (s : State) : SameFramer s s := ⟨rfl, rfl, rfl, rfl⟩

/-- What an instruction leaves alone. -/
structure LeavesAlone (i : Instr) (s t : State) : Prop where
  cfg : t.cfg = s.cfg
  inbox : t.inbox = s.inbox
  freeCount : i ≠ .reset → t.freeCount = s.freeCount
  framer : (∀ b, i ≠ .rx b) → i ≠ .reset → SameFramer s t
  nextTag : t.nextTag ≠ s.nextTag → (∃ slot id cmd addr params, i = .send slot id cmd addr params) ∨ i = .reset

/-- The frame of an instruction that keeps the fields `LeavesAlone` speaks of. -/
theorem leavesAlone_of_kept (hc : t.cfg = s.cfg) (hi : t.inbox = s.inbox) (hn : t.freeCount = s.freeCount)
    (hf : SameFramer s t) (ht : t.nextTag = s.nextTag) : LeavesAlone i s t :=
  ⟨hc, hi, fun _ => hn, fun _ _ => hf, fun h => absurd ht h⟩

theorem Effect.leavesAlone (h : Effect i s t) : LeavesAlone i s t := by
  cases h with
  | silent _ h | refused _ _ h | bound _ _ _ _ _ _ _ h | unbound _ _ _ h | sent _ _ _ h =>
    cases h
    exact leavesAlone_of_kept rfl rfl rfl (SameFramer.refl s) rfl
  | frame _ _ h _ =>
    obtain ⟨hc, hf, -, ht, -, hi, hn⟩ := h.frame
    exact leavesAlone_of_kept hc hi hn hf ht
  | rx b hi _ h =>
    obtain ⟨hc, -, ht, -, hin, hn⟩ := h.frame
    exact ⟨hc, hin, fun _ => hn, fun hrx _ => absurd hi (hrx b), fun hne => absurd ht hne⟩
  | timedOut _ _ _ _ h =>
    obtain ⟨-, rfl⟩ := h
    exact leavesAlone_of_kept rfl rfl rfl (SameFramer.refl s) rfl
  | overflowed _ _ _ _ _ _ _ h =>
    obtain ⟨-, rfl⟩ := h
    exact leavesAlone_of_kept rfl rfl rfl (SameFramer.refl s) rfl
  | issued slot id cmd addr params _ hi _ h =>
    obtain ⟨-, -, -, -, -, rfl⟩ := h
    exact ⟨rfl, rfl, fun _ => rfl, fun _ _ => SameFramer.refl s,
      fun _ => .inl ⟨slot, id, cmd, addr, params, hi⟩⟩
  | reset hi h =>
    cases h
    exact ⟨rfl, rfl, fun hne => absurd hi hne, fun _ hne => absurd hi hne, fun _ => .inr hi⟩

/-- What an instruction does to the registration table (10_state.md R22). -/
inductive TableEffect (i : Instr) (s t : State) : Prop where
  | kept (h : t.regtable = s.regtable)
  | bound (id : Byte) (slot : Nat) (hi : i = .register id slot) (hs : slot < s.cfg.numEndpoints)
      (hid : ¬ maxId < id) (hl : s.lookup id = none) (h : t.regtable = (s.setEntry id (some slot)).regtable)
  | freed (id : Byte) (hi : i = .unregister id) (h : t.regtable = (s.setEntry id none).regtable)
  | cleared (hi : i = .reset) (h : ∀ id, t.lookup id = none)

theorem Effect.tableEffect (h : Effect i s t) : TableEffect i s t := by
  cases h with
  | silent _ h | refused _ _ h | sent _ _ _ h => cases h; exact .kept rfl
  | frame _ _ h _ => obtain ⟨-, -, htable, -⟩ := h.frame; exact .kept htable
  | rx _ _ _ h => obtain ⟨-, htable, -⟩ := h.frame; exact .kept htable
  | timedOut _ _ _ _ h => obtain ⟨-, rfl⟩ := h; exact .kept rfl
  | overflowed _ _ _ _ _ _ _ h => obtain ⟨-, rfl⟩ := h; exact .kept rfl
  | issued _ _ _ _ _ _ _ _ h => obtain ⟨-, -, -, -, -, rfl⟩ := h; exact .kept rfl
  | bound id slot hi _ hs hid hl h => cases h; exact .bound id slot hi hs hid hl rfl
  | unbound id hi _ h => cases h; exact .freed id hi rfl
  | reset hi h => cases h; exact .cleared hi (lookup_resetBlock s)

/-- The output concerns a request: it arms, clears or completes one. -/
def Output.ofRequest : Output → Bool
  | .arm _ _ => true
  | .clear _ => true
  | .complete _ _ _ => true
  | _ => false

/-- The instruction delivers responses: a received byte or a response frame. -/
def Delivers (i : Instr) : Prop :=
  (∃ b, i = .rx b) ∨ (∃ id data, i = .response id data) ∨ ∃ id data, i = .responseAlt id data

/-- What an instruction does to the queues, with the outputs it emits (10_state.md R23, 43_correlator.md R83). -/
inductive QueueEffect (i : Instr) (s t : State) : Prop where
  | kept (outs : List Output) (hq : t.queue = s.queue) (ht : t.trace = s.trace ++ outs)
      (ho : ∀ o ∈ outs, o.ofRequest = false)
  | resolved (slot : Nat) (tag : Tag) (rest : List Tag) (payload : List Byte) (hi : Delivers i)
      (hs : s.queueOf slot = tag :: rest) (hq : t.queue = s.queue.set slot rest)
      (ht : t.trace = s.trace ++ [.clear tag, .complete slot tag (.response payload)])
  | timedOut (slot : Nat) (tag : Tag) (hi : i = .expire tag) (hs : tag ∈ s.queueOf slot)
      (hq : t.queue = s.queue.set slot ((s.queueOf slot).erase tag))
      (ht : t.trace = s.trace ++ [.complete slot tag .timeout])
  | issued (slot : Nat) (id cmd addr : Byte) (params : List Byte) (tag : Tag)
      (hi : i = .send slot id cmd addr params) (hs : slot < s.cfg.numEndpoints)
      (hroom : (s.queueOf slot).length < s.cfg.queueDepth) (htag : s.freeTag = some tag)
      (hq : t.queue = s.queue.set slot (s.queueOf slot ++ [tag]))
      (ht : t.trace = s.trace ++ sentOutputs s tag (wireFrame id cmd (addr :: params)))
  | reset (hi : i = .reset) (hq : t.queue = List.replicate s.cfg.numEndpoints [])
      (ht : t.trace = s.trace ++ s.pending.map .clear)

/-- Taking the oldest tag from a queue changes it. -/
theorem set_rest_ne {slot : Nat} {tag : Tag} {rest : List Tag} (h : s.queueOf slot = tag :: rest) :
    s.queue.set slot rest ≠ s.queue := by
  intro e
  have hs : slot < s.queue.length := (queueOf_mem (h ▸ List.mem_cons_self : tag ∈ s.queueOf slot)).1
  have hsame : (s.setQueue slot rest).queueOf slot = s.queueOf slot := queueOf_congr e slot
  rw [queueOf_setQueue_same hs, h] at hsame
  exact List.cons_ne_self tag rest hsame.symm

theorem Effect.queueEffect (h : Effect i s t) : QueueEffect i s t := by
  cases h with
  | silent _ h => cases h; exact .kept [] rfl (List.append_nil _).symm (by simp)
  | refused r _ h => cases h; exact .kept [.result r] rfl rfl (by simp [Output.ofRequest])
  | bound _ _ _ _ _ _ _ h | unbound _ _ _ h =>
    cases h
    exact .kept [.result .ok] rfl rfl (by simp [Output.ofRequest])
  | sent bytes _ _ h => cases h; exact .kept [.tx bytes, .result .ok] rfl rfl (by simp [Output.ofRequest])
  | overflowed _ _ _ _ _ _ _ h =>
    obtain ⟨-, rfl⟩ := h
    exact .kept [.result .encodeOverflow] rfl rfl (by simp [Output.ofRequest])
  | frame _ _ h hq =>
    rcases h with rfl | ⟨k, a, b, rfl⟩ | ⟨slot, tag, rest, payload, hs, rfl⟩
    · exact .kept [] rfl (List.append_nil _).symm (by simp)
    · exact .kept [.log k a b] rfl rfl (by simp [Output.ofRequest])
    · exact .resolved slot tag rest payload (.inr (hq.resolve_left (set_rest_ne hs))) hs rfl rfl
  | rx b hi _ h =>
    rcases h.outside with ⟨hq, ht⟩ | ⟨hq, k, a, b, ht⟩ | ⟨slot, tag, rest, payload, hs, hq, ht⟩
    · exact .kept [] hq (ht.trans (List.append_nil _).symm) (by simp)
    · exact .kept [.log k a b] hq ht (by simp [Output.ofRequest])
    · exact .resolved slot tag rest payload (.inl ⟨b, hi⟩) hs hq ht
  | timedOut tag slot hi _ h =>
    obtain ⟨hs, rfl⟩ := h
    exact .timedOut slot tag hi hs rfl rfl
  | issued slot id cmd addr params tag hi _ h =>
    obtain ⟨hs, -, -, hroom, htag, rfl⟩ := h
    exact .issued slot id cmd addr params tag hi hs hroom htag rfl rfl
  | reset hi h => cases h; exact .reset hi rfl rfl

end Effects

/-! ### Frames over all instructions -/

/-- Settles O52: one reading of `Effect.leavesAlone`. -/
theorem onlyBytesMoveTheFramer : Obligations.OnlyBytesMoveTheFramer :=
  fun _ _ _ h => (exec_cases h).leavesAlone.framer

/-- Settles O53: the queues by `Effect.queueEffect`, the tag counter by `Effect.leavesAlone`. -/
theorem whoWritesTheQueues : Obligations.WhoWritesTheQueues := by
  refine fun i s t h => ⟨fun hne => ?_, (exec_cases h).leavesAlone.nextTag⟩
  cases (exec_cases h).queueEffect with
  | kept _ hq => exact absurd hq hne
  | resolved slot tag rest _ hi hs hq => exact .inr (.inr (.inr ⟨slot, tag, rest, hs, hq, hi⟩))
  | timedOut _ tag hi => exact .inr (.inl ⟨tag, hi⟩)
  | issued slot id cmd addr params _ hi => exact .inl ⟨slot, id, cmd, addr, params, hi⟩
  | reset hi => exact .inr (.inr (.inl hi))

/-- No instruction takes back an output. -/
theorem QueueEffect.trace_prefix {i : Instr} {s t : State} (h : QueueEffect i s t) : s.trace <+: t.trace := by
  cases h with
  | kept _ _ ht | resolved _ _ _ _ _ _ _ ht | timedOut _ _ _ _ _ ht | issued _ _ _ _ _ _ _ _ _ _ _ ht
  | reset _ _ ht => exact ⟨_, ht.symm⟩

/-- Settles O54: two readings, of the fields left alone and of the outputs. -/
theorem parametersAndInputsUntouched : Obligations.ParametersAndInputsUntouched := by
  intro i s t h
  have hleft := (exec_cases h).leavesAlone
  exact ⟨hleft.cfg, hleft.inbox, (exec_cases h).queueEffect.trace_prefix, hleft.freeCount⟩

/-- An entry of the table after a write, whichever id was written. -/
theorem lookup_setEntry (s : State) (id id' : Byte) (e : Option Nat) :
    (s.setEntry id e).lookup id' = if id' = id then e else s.lookup id' := by
  by_cases h : id' = id
  · rw [if_pos h, h, lookup_setEntry_same]
  · rw [if_neg h, lookup_setEntry_other e h]

/-- Settles O33: the only writes of the table are those of `TableEffect`, each at one id. -/
theorem onlyRegistrationMovesTheTable : Obligations.OnlyRegistrationMovesTheTable := by
  intro i s t id h hne
  cases (exec_cases h).tableEffect with
  | kept hk => exact absurd (lookup_congr hk id) hne
  | bound id' slot hi _ _ hl hk =>
    have hnew := (lookup_congr hk id).trans (lookup_setEntry s id' id (some slot))
    by_cases hid : id = id'
    · subst hid
      exact .inl ⟨hl, slot, hi, hnew.trans (if_pos rfl)⟩
    · exact absurd (hnew.trans (if_neg hid)) hne
  | freed id' hi hk =>
    have hnew := (lookup_congr hk id).trans (lookup_setEntry s id' id none)
    by_cases hid : id = id'
    · subst hid
      exact .inr ⟨hnew.trans (if_pos rfl), .inl hi⟩
    · exact absurd (hnew.trans (if_neg hid)) hne
  | cleared hi hk => exact .inr ⟨hk id, .inr hi⟩

/-! ### The invariants, 10_state.md R27 -/

section Invariants

variable {s t : State} {i : Instr}

/-- INV1 to INV3, by the state of the framer. -/
theorem framerInv_seeking (hs : s.fstate = .seeking) :
    s.FramerInv ↔ s.idx ≤ 1 ∧ (s.cfg.syncPolicy = .lookback → s.idx = 1 → s.byteAt 0 = preambleByte) := by
  rw [State.FramerInv, hs]

theorem framerInv_header (hs : s.fstate = .header) :
    s.FramerInv ↔ (s.idx = 2 ∨ s.idx = 3) ∧ s.byteAt 0 = preambleByte ∧ s.byteAt 1 = preambleByte := by
  rw [State.FramerInv, hs]

theorem framerInv_body (hs : s.fstate = .body) :
    s.FramerInv ↔ 4 ≤ s.idx ∧ s.idx ≤ 258 ∧ 1 ≤ s.remaining ∧ s.remaining ≤ 255 ∧
      s.idx + s.remaining = 4 + (s.byteAt 3).toNat := by
  rw [State.FramerInv, hs]

theorem framerInv_of_idle (h : s.Idle) : s.FramerInv := by
  obtain ⟨hs, hi⟩ := h
  exact (framerInv_seeking hs).2 ⟨by omega, by omega⟩

theorem framerInv_congr (h : s.FramerInv) (hf : SameFramer s t) (hc : t.cfg = s.cfg) : t.FramerInv := by
  obtain ⟨h1, h2, h3, h4⟩ := hf
  simpa only [State.FramerInv, h1, h3, h4, hc, byteAt_congr h2] using h

/-! #### One received byte -/

theorem byteAt_keepPreamble_same {k : Nat} (b : Byte) (st : FState) (h : k < s.rxbuf.length) :
    (s.keepPreamble k b st).byteAt k = b := by
  simp [State.byteAt, h]

theorem byteAt_keepPreamble_other {k j : Nat} (b : Byte) (st : FState) (h : k ≠ j) :
    (s.keepPreamble k b st).byteAt j = s.byteAt j := by
  simp [State.byteAt, List.getD_eq_getElem?_getD, h]

/-- INV2 where the second byte of a preamble arrives. -/
theorem framerInv_preamble (h0 : s.byteAt 0 = preambleByte) (hl : 2 ≤ s.rxbuf.length) :
    (s.keepPreamble 1 preambleByte .header).FramerInv :=
  (framerInv_header rfl).2 ⟨.inl rfl, (byteAt_keepPreamble_other _ _ (by decide)).trans h0,
    byteAt_keepPreamble_same _ _ hl⟩

theorem framerInv_seekLookback (b : Byte) (h : s.FramerInv) (hs : s.fstate = .seeking)
    (hp : s.cfg.syncPolicy = .lookback) (hl : 2 ≤ s.rxbuf.length) : (s.seekLookback b).FramerInv := by
  by_cases hb : b = preambleByte
  · subst hb
    by_cases hi : s.idx = 1
    · rw [seekLookback_hit hi]
      exact framerInv_preamble (((framerInv_seeking hs).1 h).2 hp hi) hl
    · rw [seekLookback_lone hi]
      exact (framerInv_seeking rfl).2 ⟨le_rfl, fun _ _ => byteAt_keepPreamble_same _ _ (by omega)⟩
  · rw [seekLookback_other hb]
    exact framerInv_of_idle ⟨hs, rfl⟩

theorem framerInv_seekPair (b : Byte) (hs : s.fstate = .seeking) (hp : s.cfg.syncPolicy = .pairReset)
    (hl : 2 ≤ s.rxbuf.length) : (s.seekPair b).FramerInv := by
  by_cases hi : s.idx = 0
  · rw [seekPair_first b hi]
    have hne : ¬ s.cfg.syncPolicy = .lookback := by rw [hp]; decide
    exact (framerInv_seeking rfl).2 ⟨le_rfl, fun h _ => absurd h hne⟩
  · by_cases hm : s.byteAt 0 = preambleByte ∧ b = preambleByte
    · obtain ⟨h0, rfl⟩ := hm
      rw [seekPair_hit hi h0]
      exact framerInv_preamble h0 hl
    · rw [seekPair_miss hi hm]
      exact framerInv_of_idle ⟨hs, rfl⟩

theorem framerInv_receive_header (b : Byte) (h : s.FramerInv) (hs : s.fstate = .header)
    (hc : 4 ≤ s.cfg.rxCapacity) (hl : s.rxbuf.length = s.cfg.rxCapacity) : (s.header b).FramerInv := by
  obtain ⟨hi | hi, h0, h1⟩ := (framerInv_header hs).1 h
  · rw [header_id b (by omega)]
    refine (framerInv_header (s := s.store b) hs).2 ⟨.inr (congrArg (· + 1) hi), ?_, ?_⟩
    · rw [byteAt_store b (by omega), h0]
    · rw [byteAt_store b (by omega), h1]
  · by_cases hb : b = 0
    · subst hb
      rw [header_zero hi]
      exact framerInv_of_idle complete_idle
    · rw [header_length b hi hb]
      have hlen : (s.store b).byteAt 3 = b := hi ▸ byteAt_store_same b (by omega) hl
      have hpos : b.toNat ≠ 0 := fun e => hb (BitVec.eq_of_toNat_eq e)
      have hlt := b.isLt
      refine (framerInv_body rfl).2 ⟨?_, ?_, ?_, ?_, ?_⟩
      · simp [hi]
      · simp [hi]
      · exact Nat.one_le_iff_ne_zero.2 hpos
      · exact Nat.le_of_lt_succ hlt
      · change (s.store b).idx + b.toNat = 4 + ((s.store b).byteAt 3).toNat
        rw [hlen, State.store_idx, hi]

theorem framerInv_receive_body (b : Byte) (h : s.FramerInv) (hs : s.fstate = .body) : (s.body b).FramerInv := by
  obtain ⟨h4, -, h1, h255, hsum⟩ := (framerInv_body hs).1 h
  by_cases hr : s.remaining = 1
  · rw [body_last b hr]
    exact framerInv_of_idle complete_idle
  · rw [body_more b (by omega)]
    have hlen : (s.store b).byteAt 3 = s.byteAt 3 := byteAt_store b (by omega)
    have hlt := (s.byteAt 3).isLt
    refine (framerInv_body (s := { s.store b with remaining := s.remaining - 1 }) hs).2 ⟨?_, ?_, ?_, ?_, ?_⟩
    · change 4 ≤ s.idx + 1; omega
    · change s.idx + 1 ≤ 258; omega
    · change 1 ≤ s.remaining - 1; omega
    · change s.remaining - 1 ≤ 255; omega
    · change s.idx + 1 + (s.remaining - 1) = 4 + ((s.store b).byteAt 3).toNat
      rw [hlen]; omega

/-- INV1 to INV3 after one byte. -/
theorem framerInv_receive (b : Byte) (h : s.Inv) : (s.receive b).FramerInv := by
  have hc : 6 ≤ s.cfg.rxCapacity := h.valid.1
  have hl := h.sized.1
  cases hs : s.fstate with
  | seeking =>
    cases hp : s.cfg.syncPolicy with
    | lookback =>
      rw [receive_lookback b hs hp]
      exact framerInv_seekLookback b h.framer hs hp (by omega)
    | pairReset =>
      rw [receive_pairReset b hs hp]
      exact framerInv_seekPair b hs hp (by omega)
  | header =>
    rw [receive_header b hs]
    exact framerInv_receive_header b h.framer hs (by omega) hl
  | body =>
    rw [receive_body b hs]
    exact framerInv_receive_body b h.framer hs

/-- BODY with no byte to come behind this one, which completes the frame. -/
theorem body_done (b : Byte) (h : s.remaining ≤ 1) : s.body b = (s.lastStored b).complete := by
  have hr : s.remaining - 1 = 0 := by omega
  refine (if_pos hr).trans ?_
  rw [State.lastStored, State.store_remaining, hr]

/-- A received byte never changes the size of the buffer. -/
theorem length_receive (s : State) (b : Byte) : (s.receive b).rxbuf.length = s.rxbuf.length := by
  cases hs : s.fstate with
  | seeking =>
    cases hp : s.cfg.syncPolicy with
    | lookback =>
      rw [receive_lookback b hs hp, State.seekLookback]
      split_ifs <;> simp
    | pairReset =>
      rw [receive_pairReset b hs hp, State.seekPair]
      split_ifs <;> simp
  | header =>
    rw [receive_header b hs]
    by_cases hi : s.idx = 3
    · by_cases hb : b = 0
      · subst hb
        rw [header_zero hi, complete_rxbuf, length_store]
      · rw [header_length b hi hb]
        exact length_store b
    · rw [header_id b hi, length_store]
  | body =>
    rw [receive_body b hs]
    by_cases hr : s.remaining ≤ 1
    · rw [body_done b hr, complete_rxbuf]
      exact length_store b
    · rw [body_more b (by omega)]
      exact length_store b

/-! #### Any instruction -/

/-- INV1 to INV3 after any instruction: a received byte by `framerInv_receive`, RESET leaves the framer idle, and
nothing else moves it. -/
theorem framerInv_exec (h : s.Inv) (he : exec i s = .next t) :
    t.FramerInv ∧ t.rxbuf.length = s.cfg.rxCapacity := by
  have hleft := (exec_cases he).leavesAlone
  by_cases hrx : ∃ b, i = .rx b
  · obtain ⟨b, rfl⟩ := hrx
    rcases whileRunning_next he with ⟨-, rfl⟩ | ⟨-, rfl⟩
    · exact ⟨framerInv_receive b h, (length_receive s b).trans h.sized.1⟩
    · exact ⟨h.framer, h.sized.1⟩
  by_cases hreset : i = .reset
  · subst hreset
    rw [exec_reset] at he
    cases he
    exact ⟨framerInv_of_idle ⟨rfl, rfl⟩, by simp [State.freeBuffer]⟩
  · have hsame := hleft.framer (fun b hb => hrx ⟨b, hb⟩) hreset
    have ⟨_, hbuf, _, _⟩ := hsame
    exact ⟨framerInv_congr h.framer hsame hleft.cfg, by rw [hbuf, h.sized.1]⟩

/-- INV4 and the range of the slots: a new entry passed the checks of REGISTER. -/
theorem tableInv_of_effect (h : s.TableInv) (he : TableEffect i s t) (hc : t.cfg = s.cfg) : t.TableInv := by
  have hentry : ∀ id e, (∀ slot, e = some slot → ¬ maxId < id ∧ slot < s.cfg.numEndpoints) →
      t.regtable = (s.setEntry id e).regtable → t.TableInv := by
    intro id e hok hk id'
    have hnew : t.lookup id' = if id' = id then e else s.lookup id' :=
      (lookup_congr hk id').trans (lookup_setEntry s id id' e)
    rw [hnew, hc]
    by_cases hid : id' = id
    · subst hid
      rw [if_pos rfl]
      refine ⟨fun hmax => Option.eq_none_iff_forall_ne_some.2 fun slot hs => (hok slot hs).1 hmax,
        fun slot hs => (hok slot hs).2⟩
    · rw [if_neg hid]
      exact h id'
  cases he with
  | kept hk =>
    intro id
    rw [lookup_congr hk id, hc]
    exact h id
  | bound id slot _ hs hid _ hk =>
    exact hentry id (some slot) (fun _ e => Option.some.inj e ▸ ⟨hid, hs⟩) hk
  | freed id _ hk => exact hentry id none (fun _ e => nomatch e) hk
  | cleared _ hk => exact fun id => ⟨fun _ => hk id, fun slot hs => nomatch (hk id).symm.trans hs⟩

section Erase

variable {slot : Nat} {tag : Tag} (hm : tag ∈ s.queueOf slot)
  (hq : t.queue = s.queue.set slot ((s.queueOf slot).erase tag))
include hm hq

/-- A tag that leaves its queue, and the tags then pending, are the tags pending before. -/
theorem pending_of_erase : (tag :: t.pending).Perm s.pending := by
  rw [pending_congr (s := s.setQueue slot ((s.queueOf slot).erase tag)) hq]
  exact pending_erase hm

/-- By INV5 such a tag is pending nowhere afterwards. -/
theorem not_pending_of_erase (h : s.QueueInv) : tag ∉ t.pending :=
  (List.nodup_cons.1 ((pending_of_erase hm hq).nodup_iff.2 h.1)).1

theorem queueInv_erase (h : s.QueueInv) (hc : t.cfg = s.cfg) : t.QueueInv := by
  refine ⟨(List.nodup_cons.1 ((pending_of_erase hm hq).nodup_iff.2 h.1)).2, fun q hmem => ?_⟩
  rw [hq] at hmem
  rw [hc]
  rcases List.mem_or_eq_of_mem_set hmem with hmem | rfl
  · exact h.2 q hmem
  · exact (List.erase_sublist.length_le).trans (h.2 _ (queueOf_mem hm).2)

end Erase

/-- INV5 where a fresh tag enters a queue with room. -/
theorem queueInv_enqueue {slot : Nat} {tag : Tag} (h : s.QueueInv) (hs : slot < s.queue.length)
    (hroom : (s.queueOf slot).length < s.cfg.queueDepth) (hfree : tag ∉ s.pending)
    (hq : t.queue = s.queue.set slot (s.queueOf slot ++ [tag])) (hc : t.cfg = s.cfg) : t.QueueInv := by
  have hp : t.pending = (s.setQueue slot (s.queueOf slot ++ [tag])).pending := pending_congr hq
  refine ⟨?_, fun q hmem => ?_⟩
  · rw [hp, (pending_enqueue hs tag).nodup_iff, (List.perm_append_singleton tag s.pending).nodup_iff]
    exact List.nodup_cons.2 ⟨hfree, h.1⟩
  · rw [hq] at hmem
    rw [hc]
    rcases List.mem_or_eq_of_mem_set hmem with hmem | rfl
    · exact h.2 q hmem
    · rw [List.length_append, List.length_singleton]
      exact hroom

theorem pending_of_empty {n : Nat} (h : t.queue = List.replicate n []) : t.pending = [] := by
  rw [State.pending, h, List.flatten_replicate_nil]

/-- The search never answers a tag in use. -/
theorem freeTag_not_pending {tag : Tag} (h : s.freeTag = some tag) : tag ∉ s.pending := by
  obtain ⟨-, -, -, hfree, -⟩ := firstFree_some h
  exact hfree

/-- INV5 and the number of queues after any instruction. -/
theorem queueInv_of_effect (h : s.Inv) (he : QueueEffect i s t) (hc : t.cfg = s.cfg) :
    t.QueueInv ∧ t.queue.length = s.cfg.numEndpoints := by
  have hlen := h.sized.2
  cases he with
  | kept _ hq =>
    refine ⟨⟨?_, ?_⟩, by rw [hq, hlen]⟩
    · rw [pending_congr hq]; exact h.queues.1
    · rw [hq, hc]; exact h.queues.2
  | resolved slot tag rest _ _ hs hq =>
    have hm : tag ∈ s.queueOf slot := by rw [hs]; exact List.mem_cons_self
    exact ⟨queueInv_erase hm (by rw [erase_oldest hs, hq]) h.queues hc, by rw [hq, List.length_set, hlen]⟩
  | timedOut slot tag _ hm hq =>
    exact ⟨queueInv_erase hm hq h.queues hc, by rw [hq, List.length_set, hlen]⟩
  | issued slot _ _ _ _ tag _ hs hroom htag hq =>
    exact ⟨queueInv_enqueue h.queues (hlen ▸ hs) hroom (freeTag_not_pending htag) hq hc,
      by rw [hq, List.length_set, hlen]⟩
  | reset _ hq =>
    refine ⟨⟨?_, fun q hmem => ?_⟩, by rw [hq, List.length_replicate]⟩
    · rw [pending_of_empty hq]; exact List.nodup_nil
    · rw [hq] at hmem
      rw [List.eq_of_mem_replicate hmem]
      exact Nat.zero_le _

/-- Every instruction keeps the invariants. -/
theorem inv_exec (h : s.Inv) (he : exec i s = .next t) : t.Inv := by
  have hc := (exec_cases he).leavesAlone.cfg
  obtain ⟨hleftr, hbuf⟩ := framerInv_exec h he
  obtain ⟨hqueues, hlen⟩ := queueInv_of_effect h (exec_cases he).queueEffect hc
  refine ⟨hc ▸ h.valid, ⟨hc ▸ hbuf, hc ▸ hlen⟩, hleftr, ?_, hqueues⟩
  exact tableInv_of_effect h.table (exec_cases he).tableEffect hc

/-- The invariants say nothing of the inbox. -/
theorem inv_withInbox (h : s.Inv) (rest : List (List Byte)) : { s with inbox := rest }.Inv :=
  ⟨h.valid, h.sized, h.framer, h.table, h.queues⟩

end Invariants

/-- Settles O50: a step waits, or runs one instruction, which keeps the invariants by `inv_exec`. -/
theorem everyStepKeepsTheInvariants : Obligations.EveryStepKeepsTheInvariants := by
  intro s t h hstep
  rcases step_cases hstep with rfl | ⟨rest, i, he⟩
  · exact h
  · exact inv_exec (inv_withInbox h rest) he

/-- No request is pending at reset. -/
theorem pending_resetWith (c : Config) : (State.resetWith c).pending = [] := pending_of_empty rfl

theorem inv_resetWith {c : Config} (h : c.Valid) : (State.resetWith c).Inv where
  valid := h
  sized := ⟨List.length_replicate, List.length_replicate⟩
  framer := framerInv_of_idle ⟨rfl, rfl⟩
  table id := ⟨fun _ => lookup_resetWith c id, fun slot hs => nomatch (lookup_resetWith c id).symm.trans hs⟩
  queues := ⟨by rw [pending_resetWith]; exact List.nodup_nil, fun q hmem => by
    rw [List.eq_of_mem_replicate hmem]
    exact Nat.zero_le _⟩

/-- Settles O49: the framer is idle, the table free and every queue empty; the default build is valid. -/
theorem invariantsHoldAtReset : Obligations.InvariantsHoldAtReset := by
  refine ⟨fun c hv => ⟨inv_resetWith hv, ?_⟩, inv_resetWith (by decide)⟩
  rw [State.TimersMatch, pending_resetWith]
  exact List.Perm.nil

/-! ### Timers, 43_correlator.md R83 -/

section Timers

variable {s t : State} {i : Instr}

/-- Outputs that concern no request leave the timers alone. -/
theorem foldl_timerEffect_kept {outs : List Output} (armed : List Tag) (h : ∀ o ∈ outs, o.ofRequest = false) :
    outs.foldl timerEffect armed = armed := by
  induction outs with
  | nil => rfl
  | cons o outs ih =>
    obtain ⟨ho, hrest⟩ := List.forall_mem_cons.1 h
    have hkept : timerEffect armed o = armed := by
      cases o with
      | arm | clear | complete => cases ho
      | tx | log | result => rfl
    rw [List.foldl_cons, hkept]
    exact ih hrest

/-- A request that leaves its queue, with its timer ended, leaves the timers matched. -/
theorem timersMatch_erase {slot : Nat} {tag : Tag} (h : s.TimersMatch) (hm : tag ∈ s.queueOf slot)
    (hq : t.queue = s.queue.set slot ((s.queueOf slot).erase tag))
    (ht : armedTimers t.trace = (armedTimers s.trace).erase tag) : t.TimersMatch := by
  rw [State.TimersMatch, ht]
  simpa using (h.trans (pending_of_erase hm hq).symm).erase tag

theorem timersMatch_of_effect (h : s.Inv) (hm : s.TimersMatch) (he : QueueEffect i s t) : t.TimersMatch := by
  cases he with
  | kept outs hq ht ho =>
    rw [State.TimersMatch, ht, armedTimers_append, foldl_timerEffect_kept _ ho, pending_congr hq]
    exact hm
  | resolved slot tag rest payload _ hs hq ht =>
    have hmem : tag ∈ s.queueOf slot := by rw [hs]; exact List.mem_cons_self
    exact timersMatch_erase hm hmem (by rw [erase_oldest hs, hq]) (by rw [ht, armedTimers_append]; rfl)
  | timedOut slot tag _ hmem hq ht =>
    exact timersMatch_erase hm hmem hq (by rw [ht, armedTimers_append]; rfl)
  | issued slot id cmd addr params tag _ hs _ _ hq ht =>
    have hp := pending_enqueue (h.sized.2 ▸ hs : slot < s.queue.length) tag
    rw [State.TimersMatch, ht, armedTimers_append,
      pending_congr (s := s.setQueue slot (s.queueOf slot ++ [tag])) hq]
    exact (hm.append_right [tag]).trans hp.symm
  | reset _ hq ht =>
    rw [State.TimersMatch, ht, armedTimers_append, clear_all hm, pending_of_empty hq]

end Timers

/-- Settles O42: a step waits, or runs one instruction, whose outputs arm and end timers as its queues change. -/
theorem armedTimersMatchPendingKept : Obligations.ArmedTimersMatchPendingKept := by
  intro s t h hm hstep
  rcases step_cases hstep with rfl | ⟨rest, i, he⟩
  · exact hm
  · exact timersMatch_of_effect (s := { s with inbox := rest }) (inv_withInbox h rest) hm (exec_cases he).queueEffect

end Sys2Proof.Machine

namespace Sys2Proof.Machine

/-! ### Runs of received bytes, 41_framer.md R70 -/

section Runs

variable {s t u : State}

/-- A run of bytes never changes the size of the buffer. -/
theorem length_feed {bs : List Byte} (h : s.fault = none) (hfeed : feed bs s = .next t) :
    t.rxbuf.length = s.rxbuf.length := by
  induction bs generalizing s with
  | nil => cases hfeed; rfl
  | cons b bs ih =>
    rw [feed_cons h] at hfeed
    rw [ih ((receive_fault b).trans h) hfeed, length_receive]

/-- What an unfaulted run of bytes keeps. -/
theorem feed_keeps {bs : List Byte} (h : s.fault = none) (hfeed : feed bs s = .next t) :
    t.fault = none ∧ t.cfg = s.cfg ∧ t.rxbuf.length = s.rxbuf.length := by
  obtain ⟨t', hfeed', hfault, hcfg⟩ := feed_next bs h
  cases hfeed.symm.trans hfeed'
  exact ⟨hfault, hcfg, length_feed h hfeed⟩

theorem feed_one (b : Byte) (h : s.fault = none) : feed [b] s = .next (s.receive b) := feed_cons h

/-! #### FP1: the framer never wedges -/

/-- From BODY the bytes still to come end the frame, whatever they are and whether or not the buffer holds them. -/
theorem feed_body_idle {bs : List Byte} (hf : s.fault = none) (hs : s.fstate = .body) (hpos : 1 ≤ s.remaining)
    (hlen : bs.length = s.remaining) : ∃ t, feed bs s = .next t ∧ t.Idle := by
  induction bs generalizing s with
  | nil => rw [← hlen] at hpos; cases hpos
  | cons b bs ih =>
    rw [List.length_cons] at hlen
    rw [feed_cons hf, receive_body b hs]
    by_cases hr : s.remaining = 1
    · obtain rfl : bs = [] := List.length_eq_zero_iff.1 (by omega)
      rw [body_last b hr]
      exact ⟨_, rfl, complete_idle⟩
    · rw [body_more b (by omega)]
      exact ih (s := { s.store b with remaining := s.remaining - 1 }) hf hs
        (by change 1 ≤ s.remaining - 1; omega) (by change bs.length = s.remaining - 1; omega)

/-- From the length byte on, at most 256 bytes end the frame. -/
theorem feed_length_idle {bs : List Byte} (hf : s.fault = none) (hs : s.fstate = .header) (hi : s.idx = 3)
    (hlen : 256 ≤ bs.length) : ∃ k t, k ≤ 256 ∧ feed (bs.take k) s = .next t ∧ t.Idle := by
  cases bs with
  | nil => cases hlen
  | cons b bs =>
    rw [List.length_cons] at hlen
    by_cases hb : b = 0
    · subst hb
      refine ⟨1, (s.store 0).complete, by omega, ?_, complete_idle⟩
      rw [List.take_succ_cons, feed_cons hf, receive_header 0 hs, header_zero hi]
      rfl
    · have hlt := b.isLt
      have hpos : b.toNat ≠ 0 := fun e => hb (BitVec.eq_of_toNat_eq e)
      obtain ⟨t, hfeed, hidle⟩ := feed_body_idle (s := { s.store b with remaining := b.toNat, fstate := .body })
        (bs := bs.take b.toNat) hf rfl (Nat.one_le_iff_ne_zero.2 hpos) (by rw [List.length_take]; dsimp only; omega)
      refine ⟨b.toNat + 1, t, by omega, ?_, hidle⟩
      rw [List.take_succ_cons, feed_cons hf, receive_header b hs, header_length b hi hb, hfeed]

/-- Settles O23: from BODY by `feed_body_idle`; from HEADER by `feed_length_idle`, behind the id where it is still to
come. -/
theorem framerNeverWedges : Obligations.FramerNeverWedges := by
  refine fun s bs hinv hf => ⟨fun hs hlen => ?_, fun hs hlen => ?_⟩
  · obtain ⟨-, -, hpos, -, -⟩ := hinv.framer.of_body hs
    exact feed_body_idle hf hs hpos hlen
  · obtain ⟨hi | hi, -, -⟩ := (framerInv_header hs).1 hinv.framer
    · cases bs with
      | nil => rw [hi] at hlen; cases hlen
      | cons b bs =>
        rw [hi, List.length_cons] at hlen
        obtain ⟨k, t, hk, hfeed, hidle⟩ := feed_length_idle (s := s.store b) (bs := bs) hf hs
          (congrArg (· + 1) hi) (by omega)
        refine ⟨k + 1, t, by omega, ?_, hidle⟩
        rw [List.take_succ_cons, feed_cons hf, receive_header b hs, header_id b (by omega), hfeed]
    · rw [hi] at hlen ⊢
      exact feed_length_idle hf hs hi hlen

/-! #### FP2: SEEKING under LOOKBACK -/

theorem hasPreamble_concat (bs : List Byte) (b : Byte) :
    hasPreamble (bs ++ [b]) = true ↔
      hasPreamble bs = true ∨ (bs.getLast? = some preambleByte ∧ b = preambleByte) := by
  match bs with
  | [] => simp [hasPreamble]
  | [a] => simp [hasPreamble]
  | a :: c :: rest =>
    have ih := hasPreamble_concat (c :: rest) b
    simp only [List.cons_append, hasPreamble, Bool.or_eq_true, List.getLast?_cons_cons] at ih ⊢
    rw [ih, or_assoc]

/-- The framer in SEEKING, all else as in `s`. -/
def Seeks (s t : State) : Prop := FramerOnly s t ∧ t.fstate = .seeking

/-- Under LOOKBACK a run without two consecutive `FF` stays in SEEKING, and `idx` says whether its last byte was one. -/
theorem feed_lookback {bs : List Byte} (hs : s.Idle) (hf : s.fault = none) (hp : s.cfg.syncPolicy = .lookback)
    (hq : hasPreamble bs = false) :
    ∃ t, feed bs s = .next t ∧ Seeks s t ∧ t.idx = if bs.getLast? = some preambleByte then 1 else 0 := by
  induction bs using List.reverseRecOn with
  | nil => exact ⟨s, rfl, ⟨.refl s, hs.1⟩, hs.2⟩
  | append_singleton bs b ih =>
    rw [← Bool.not_eq_true, hasPreamble_concat, not_or, Bool.not_eq_true] at hq
    obtain ⟨hquiet, hlast⟩ := hq
    obtain ⟨t, hfeed, ⟨honly, hst⟩, hidx⟩ := ih hquiet
    have hpt : t.cfg.syncPolicy = .lookback := honly.cfg_eq ▸ hp
    rw [feed_append hfeed, feed_one b (honly.fault_eq.trans hf), receive_lookback b hst hpt, List.getLast?_concat]
    by_cases hb : b = preambleByte
    · subst hb
      have hlone : t.idx ≠ 1 := by
        rw [hidx, if_neg fun h => hlast ⟨h, rfl⟩]
        decide
      rw [seekLookback_lone hlone]
      exact ⟨_, rfl, ⟨honly.trans rfl, rfl⟩, (if_pos rfl).symm⟩
    · rw [seekLookback_other hb]
      exact ⟨_, rfl, ⟨honly.trans rfl, hst⟩, (if_neg fun h => hb (Option.some.inj h)).symm⟩

/-- Settles O24: `feed_lookback`, and one more `FF` behind an `FF`. -/
theorem lookbackSyncPoint : Obligations.LookbackSyncPoint := by
  intro s bs hs hf hp hq
  obtain ⟨t, hfeed, ⟨honly, hst⟩, hidx⟩ := feed_lookback hs hf hp hq
  refine ⟨⟨t, hfeed, hst⟩, fun hlast => ?_⟩
  have hi : t.idx = 1 := hidx.trans (if_pos hlast)
  have hpt : t.cfg.syncPolicy = .lookback := honly.cfg_eq ▸ hp
  refine ⟨t.keepPreamble 1 preambleByte .header, ?_, rfl, rfl⟩
  rw [feed_append hfeed, feed_one _ (honly.fault_eq.trans hf), receive_lookback _ hst hpt]
  exact congrArg _ (seekLookback_hit hi)

/-! #### FP3: SEEKING under PAIR_RESET -/

/-- The first byte of a pair is kept. -/
theorem feed_pairReset_one (b : Byte) (hs : s.Idle) (hf : s.fault = none) (hp : s.cfg.syncPolicy = .pairReset) :
    feed [b] s = .next (s.keepPreamble 0 b .seeking) := by
  rw [feed_one b hf, receive_pairReset b hs.1 hp, seekPair_first b hs.2]

/-- A pair other than `FF FF` is dropped. -/
theorem feed_pairReset_two {a b : Byte} (hs : s.Idle) (hf : s.fault = none) (hp : s.cfg.syncPolicy = .pairReset)
    (hab : ¬ (a = preambleByte ∧ b = preambleByte)) :
    ∃ t, feed [a, b] s = .next t ∧ FramerOnly s t ∧ t.Idle := by
  have hmiss : ¬ ((s.keepPreamble 0 a .seeking).byteAt 0 = preambleByte ∧ b = preambleByte) := by
    rintro ⟨h0, hb⟩
    by_cases hlen : 0 < s.rxbuf.length
    · exact hab ⟨(byteAt_keepPreamble_same a .seeking hlen).symm.trans h0, hb⟩
    · rw [List.length_pos_iff, not_not] at hlen
      rw [State.byteAt, State.keepPreamble_rxbuf, hlen, List.set_nil] at h0
      exact absurd h0 (by decide)
  refine ⟨{ s.keepPreamble 0 a .seeking with idx := 0 }, ?_, rfl, rfl, rfl⟩
  rw [show [a, b] = [a] ++ [b] from rfl, feed_append (feed_pairReset_one a hs hf hp),
    feed_one b (s := s.keepPreamble 0 a .seeking) hf, receive_pairReset (s := s.keepPreamble 0 a .seeking) b rfl hp,
    seekPair_miss Nat.one_ne_zero hmiss]

/-- Under PAIR_RESET a run without an aligned `FF FF` stays in SEEKING, idle at every even offset. -/
theorem feed_pairReset : ∀ {bs : List Byte} {s : State}, s.Idle → s.fault = none →
    s.cfg.syncPolicy = .pairReset → hasAlignedPreamble bs = false →
    ∃ t, feed bs s = .next t ∧ Seeks s t ∧ (bs.length % 2 = 0 → t.Idle)
  | [], s, hs, _, _, _ => ⟨s, rfl, ⟨.refl s, hs.1⟩, fun _ => hs⟩
  | [b], s, hs, hf, hp, _ => ⟨_, feed_pairReset_one b hs hf hp, ⟨rfl, rfl⟩, fun h => nomatch h⟩
  | a :: b :: rest, s, hs, hf, hp, hq => by
    simp only [hasAlignedPreamble, Bool.or_eq_false_iff, Bool.and_eq_false_iff, beq_eq_false_iff_ne] at hq
    obtain ⟨hab, hrest⟩ := hq
    obtain ⟨t, hfeed, honly, hidle⟩ := feed_pairReset_two hs hf hp (not_and_or.2 hab)
    obtain ⟨u, hfeed', ⟨honly', hst⟩, heven⟩ :=
      feed_pairReset hidle (honly.fault_eq.trans hf) (honly.cfg_eq ▸ hp) hrest
    refine ⟨u, ?_, ⟨honly.trans honly', hst⟩, fun h => heven ?_⟩
    · rw [show a :: b :: rest = [a, b] ++ rest from rfl, feed_append hfeed, hfeed']
    · simpa [Nat.add_assoc] using h

/-- Settles O25: `feed_pairReset` up to the even offset, then one byte of a pair, or a whole preamble. -/
theorem pairResetSyncPoint : Obligations.PairResetSyncPoint := by
  intro s bs hs hz hv hf hp heven hq
  obtain ⟨t, hfeed, ⟨honly, hst⟩, hidle⟩ := feed_pairReset hs hf hp hq
  obtain ⟨hft, hct, hlt⟩ := feed_keeps hf hfeed
  refine ⟨⟨t, hfeed, hidle heven⟩, fun b => ?_, ?_⟩
  · exact ⟨_, by rw [feed_append hfeed, feed_pairReset_one b (hidle heven) hft (hct ▸ hp)], rfl⟩
  · have hcap : 6 ≤ t.cfg.rxCapacity := hct ▸ hv.1
    obtain ⟨u, hfeed', hholds⟩ := feed_preamble (hidle heven) (by rw [hlt, hct, hz.1]) (by omega) hft
    exact ⟨u, by rw [feed_append hfeed]; exact hfeed', hholds.fstate, hholds.idx⟩

/-! #### Under either policy -/

/-- A preamble at an even offset is one at some offset. -/
theorem hasAligned_of_hasPreamble_false : ∀ {bs : List Byte}, hasPreamble bs = false → hasAlignedPreamble bs = false
  | [], _ => rfl
  | [_], _ => rfl
  | [a, b], h => h
  | a :: b :: c :: rest, h => by
    simp only [hasPreamble, Bool.or_eq_false_iff] at h
    obtain ⟨hab, -, hrest⟩ := h
    simp only [hasAlignedPreamble, Bool.or_eq_false_iff]
    exact ⟨hab, hasAligned_of_hasPreamble_false hrest⟩

/-- Quiet noise leaves the framer idle. -/
theorem feed_noise {noise : List Byte} (hs : s.Idle) (hf : s.fault = none)
    (hq : QuietNoise s.cfg.syncPolicy noise) : ∃ t, feed noise s = .next t ∧ FramerOnly s t ∧ t.Idle := by
  cases hp : s.cfg.syncPolicy with
  | lookback =>
    rw [hp] at hq
    obtain ⟨hquiet, hlast⟩ := hq
    obtain ⟨t, hfeed, ⟨honly, hst⟩, hidx⟩ := feed_lookback hs hf hp hquiet
    exact ⟨t, hfeed, honly, hst, hidx.trans (if_neg hlast)⟩
  | pairReset =>
    rw [hp] at hq
    obtain ⟨heven, hquiet⟩ := hq
    obtain ⟨t, hfeed, ⟨honly, -⟩, hidle⟩ := feed_pairReset hs hf hp hquiet
    exact ⟨t, hfeed, honly, hidle heven⟩

/-- A tail without two consecutive `FF` stays in SEEKING. -/
theorem feed_tail {tail : List Byte} (hs : s.Idle) (hf : s.fault = none) (hq : hasPreamble tail = false) :
    ∃ t, feed tail s = .next t ∧ Seeks s t := by
  cases hp : s.cfg.syncPolicy with
  | lookback =>
    obtain ⟨t, hfeed, hseeks, -⟩ := feed_lookback hs hf hp hq
    exact ⟨t, hfeed, hseeks⟩
  | pairReset =>
    obtain ⟨t, hfeed, hseeks, -⟩ := feed_pairReset hs hf hp (hasAligned_of_hasPreamble_false hq)
    exact ⟨t, hfeed, hseeks⟩

/-! #### The end of a frame that the buffer holds -/

/-- What the completion tests of R67 read, from the buffer and from the frame it holds. -/
theorem Holds.checksum_slice {st : FState} {f : List Byte} (h : Holds s u st f) :
    slice u.rxbuf 2 (u.idx - 1) = slice f 2 (f.length - 1) := by
  rw [← slice_take u.rxbuf (Nat.sub_le u.idx 1), h.bytes, h.idx]

theorem Holds.last_byte {st : FState} {f : List Byte} (h : Holds s u st f) (hpos : 1 ≤ f.length) :
    u.byteAt (u.idx - 1) = f.getD (f.length - 1) 0 := by
  rw [h.idx]
  exact h.byteAt (by omega)

theorem Holds.fits {st : FState} {f : List Byte} (h : Holds s u st f) (hcap : f.length ≤ s.cfg.rxCapacity) :
    u.idx ≤ u.cfg.rxCapacity := by
  rw [h.idx, h.only.cfg_eq]
  exact hcap

/-- What a wire frame whose length byte does not wrap shows to the tests. -/
theorem wireFrame_passes {id cmd : Byte} {data : List Byte} (h : data.length ≤ 253) :
    ¬ (wireFrame id cmd data).getD 3 0 < 2 ∧
      checksum (slice (wireFrame id cmd data) 2 ((wireFrame id cmd data).length - 1)) =
        (wireFrame id cmd data).getD ((wireFrame id cmd data).length - 1) 0 := by
  constructor
  · have hlen : ((wireFrame id cmd data).getD 3 0).toNat = data.length + 2 := by
      rw [wireFrame_eq]
      simp only [List.getD_cons_succ, List.getD_cons_zero, BitVec.toNat_ofNat]
      omega
    rw [BitVec.lt_def, hlen]
    exact Nat.not_lt.2 (Nat.le_add_left 2 _)
  · rw [slice_wireFrame, List.getD_eq_getElem?_getD, ← List.getLast?_eq_getElem?, getLast?_wireFrame,
      Option.getD_some]

/-- A frame that decodes to a row passes the tests, and is classified. -/
theorem Holds.complete_eq {st : FState} {f : List Byte} {i : Instr} (h : Holds s u st f)
    (hcap : f.length ≤ s.cfg.rxCapacity) (hd : decodeWire f = .ok i) :
    u.complete = u.toSeeking.classify f := by
  obtain ⟨id, cmd, data, hlen, rfl, -⟩ := decodeWire_ok hd
  obtain ⟨hlong, hsum⟩ := wireFrame_passes (id := id) (cmd := cmd) hlen
  have hsize : (wireFrame id cmd data).length = data.length + 6 := wireFrame_length ..
  rw [complete_accepted (h.fits hcap) (by rw [h.byteAt (by omega)]; exact hlong)
    (by rw [h.checksum_slice, h.last_byte (by omega)]; exact hsum), h.bytes]

/-- The state in which the last byte of a frame is stored holds the frame. -/
theorem Holds.lastStored {f : List Byte} (h : Holds s t .body f) (b : Byte) (hc : f.length < s.cfg.rxCapacity) :
    Holds s (t.lastStored b) .body (f ++ [b]) := by
  obtain ⟨hst, hidx, hbytes, hsize, honly⟩ := h.store b hc
  exact ⟨hst, hidx, hbytes, hsize, honly.trans rfl⟩

theorem exec_rx_last {f : List Byte} (b : Byte) (h : Holds s t .body f) (hf : s.fault = none)
    (hr : t.remaining = 1) : exec (.rx b) t = .next (t.lastStored b).complete := by
  rw [exec_rx_body b (h.only.fault_eq.trans hf) h.fstate, body_last b hr]

theorem FramerOnly.toSeeking (h : FramerOnly s t) : FramerOnly s t.toSeeking := h.trans rfl

/-- The effect of a frame outside the framer does not depend on the framer. -/
theorem FramerOnly.classify (h : FramerOnly s t) (f : List Byte) : FramerOnly (s.classify f) (t.classify f) := by
  have hl : ∀ id, t.lookup id = s.lookup id := fun id => lookup_congr (by rw [h]) id
  have hq : ∀ slot, t.queueOf slot = s.queueOf slot := fun slot => queueOf_congr (by rw [h]) slot
  have hc : t.cfg = s.cfg := h.cfg_eq
  simp only [State.classify]
  split
  · exact h
  split
  · simp only [State.dispatch, hl]
    split
    · rw [h]; rfl
    · simp only [State.deliver, hq, payloadOf, hc]
      split
      · rw [h]; rfl
      · rw [h]; rfl
  · rw [h]; rfl

/-- An idle framer is idle after the effect of a frame. -/
theorem classify_idle (h : s.Idle) (f : List Byte) : (s.classify f).Idle := by
  obtain ⟨-, ⟨hst, -, hidx, -⟩, -⟩ := (classify_effect s f).frame
  exact ⟨hst.trans h.1, hidx.trans h.2⟩

/-- The last byte of a frame that decodes to a row does outside the framer what the row's instruction does. -/
theorem Holds.run_last {f : List Byte} {b : Byte} {i : Instr} (h : Holds s t .body f) (hf : s.fault = none)
    (hr : t.remaining = 1) (hcap : f.length + 1 ≤ s.cfg.rxCapacity) (hd : decodeWire (f ++ [b]) = .ok i) :
    ∃ v u, exec (.rx b) t = .next v ∧ exec i s = .next u ∧ v.Idle ∧ FramerOnly u v := by
  have hstored := h.lastStored b hcap
  refine ⟨(t.lastStored b).toSeeking.classify (f ++ [b]), s.classify (f ++ [b]), ?_, classifyRunsTheRow s _ i hf hd,
    classify_idle ⟨rfl, rfl⟩ _, ?_⟩
  · rw [exec_rx_last b h hf hr, hstored.complete_eq (by rw [List.length_append]; exact hcap) hd]
  · exact FramerOnly.classify hstored.only.toSeeking _

end Runs

/-- Settles O11: in BODY the framer holds the bytes stored so far, so `Holds.run_last` applies. -/
theorem lastByteRunsTheFrame : Obligations.LastByteRunsTheFrame := by
  intro s b i hinv hf hs hr hcap hd
  have hlen : (s.rxbuf.take s.idx).length = s.idx := List.length_take_of_le (by rw [hinv.sized.1]; omega)
  have hholds : Holds s s .body (s.rxbuf.take s.idx) := ⟨hs, hlen.symm, rfl, hinv.sized.1, .refl s⟩
  obtain ⟨v, u, hrx, hrow, hidle, honly⟩ := hholds.run_last hf hr (by rw [hlen]; exact hcap) hd
  exact ⟨v, u, hrx, hrow, hidle, honly.beyond⟩

/-- A wire frame as it arrives: preamble, id and length, body, checksum. -/
theorem wireFrame_arrives (id cmd : Byte) (data : List Byte) :
    wireFrame id cmd data =
      ([preambleByte, preambleByte, id, BitVec.ofNat 8 (data.length + 2)] ++ (cmd :: data)) ++
        [checksum (frameBody id cmd data)] := by
  simp [wireFrame, frameBody]

/-- Settles O26: quiet noise leaves the framer idle; the frame fills the buffer up to its last byte, which runs the
row (`Holds.run_last`); the tail stays in SEEKING. -/
theorem noiseAroundOneFrame : Obligations.NoiseAroundOneFrame := by
  intro s noise f i hs hz hv hf hq hd hcap
  obtain ⟨id, cmd, data, hlen, hframe, -⟩ := decodeWire_ok hd
  rw [wireFrame_arrives] at hframe
  have hsize : f.length = data.length + 6 := by rw [hframe]; simp
  have hL : (BitVec.ofNat 8 (data.length + 2)).toNat = (cmd :: data).length + 1 := by
    rw [BitVec.toNat_ofNat, List.length_cons]
    omega
  obtain ⟨n, hnoise, honly, hidle⟩ := feed_noise hs hf hq
  obtain ⟨hfn, hcn, hln⟩ := feed_keeps hf hnoise
  obtain ⟨h, hhead, hholds, hr⟩ := feed_frame (id := id) (body := cmd :: data) hidle (by rw [hln, hcn, hz.1]) hfn hL
    (by rw [hL, hcn, List.length_cons]; omega)
  have hholds' : Holds s h .body _ :=
    ⟨hholds.fstate, hholds.idx, hholds.bytes, hholds.size, honly.trans hholds.only⟩
  obtain ⟨t, u, hrx, hrow, htidle, htonly⟩ := hholds'.run_last hf hr
    (by simp only [List.length_append, List.length_cons, List.length_nil]; omega) (hframe ▸ hd)
  have hlast : feed [checksum (frameBody id cmd data)] h = .next t := by
    rw [feed, hrx]
    rfl
  have hfeed : feed (noise ++ f) s = .next t := by rw [feed_append hnoise, hframe, feed_append hhead, hlast]
  refine ⟨t, u, hrow, hfeed, htidle, htonly.beyond, fun tail htail => ?_⟩
  obtain ⟨hft, -, -⟩ := feed_keeps hf hfeed
  obtain ⟨v, htl, hvonly, hvst⟩ := feed_tail htidle hft htail
  exact ⟨v, by rw [feed_append hfeed, htl], hvst, hvonly.beyond⟩

/-- Settles O27: the frame fills the buffer; its last byte fails the third test of R67, which is logged. -/
theorem wrongChecksumIsLogged : Obligations.WrongChecksumIsLogged := by
  intro s id len chk body hs hz hv hf hlen hmin hcap hchk
  obtain ⟨t, hfeed, hholds, hr⟩ := feed_frame (id := id) hs hz.1 hf hlen hcap
  have hsize : ([preambleByte, preambleByte, id, len] ++ body).length = body.length + 4 := by simp
  have hstored := hholds.lastStored chk (by omega)
  have hslice : slice (t.lastStored chk).rxbuf 2 ((t.lastStored chk).idx - 1) = id :: len :: body := by
    rw [hstored.checksum_slice]
    simp [slice]
  have hbyte : (t.lastStored chk).byteAt ((t.lastStored chk).idx - 1) = chk := by
    rw [hstored.last_byte (by simp)]
    simp
  have hid : (t.lastStored chk).byteAt 2 = id := hstored.byteAt (by simp)
  have hL : (t.lastStored chk).byteAt 3 = len := hstored.byteAt (by simp)
  have hcomplete : (t.lastStored chk).complete =
      (t.lastStored chk).toSeeking.log .checksumMismatch id len := by
    rw [complete_checksumMismatch (hstored.fits (by simp; omega)) (by rw [hL]; exact Nat.not_lt.2 hmin)
      (by rw [hslice, hbyte]; exact hchk.symm), hid, hL]
  refine ⟨_, (feed_append hfeed).trans ?_, complete_idle (s := t.lastStored chk), ?_⟩
  · rw [feed, exec_rx_last chk hholds hf hr]
    rfl
  · rw [hcomplete]
    obtain ⟨htable, hqueue, htag, hfault, htrace⟩ := hstored.only.toSeeking.beyond
    exact ⟨htable, hqueue, htag, hfault, congrArg (· ++ _) htrace⟩

/-! ### The framer reads nothing else, 10_state.md R18 to R21 -/

section Blind

variable {s t : State}

theorem SameFramer.store (h : SameFramer s t) (hc : t.cfg = s.cfg) (b : Byte) :
    SameFramer (s.store b) (t.store b) := by
  obtain ⟨hst, hbuf, hidx, hrem⟩ := h
  exact ⟨hst, by simp only [State.store_rxbuf, hidx, hc, hbuf], congrArg (· + 1) hidx, hrem⟩

theorem SameFramer.keepPreamble (h : SameFramer s t) (i : Nat) (b : Byte) (st : FState) :
    SameFramer (s.keepPreamble i b st) (t.keepPreamble i b st) := by
  obtain ⟨-, hbuf, -, hrem⟩ := h
  exact ⟨rfl, congrArg (·.set i b) hbuf, rfl, hrem⟩

/-- A completed frame leaves the framer idle, with the buffer as it was. -/
theorem SameFramer.complete (h : SameFramer s t) : SameFramer s.complete t.complete := by
  obtain ⟨-, hbuf, -, -⟩ := h
  refine ⟨?_, ?_, ?_, ?_⟩
  · rw [complete_fstate, complete_fstate]
  · rw [complete_rxbuf, complete_rxbuf, hbuf]
  · rw [complete_idx, complete_idx]
  · rw [complete_remaining, complete_remaining]

theorem SameFramer.receive (h : SameFramer s t) (hc : t.cfg = s.cfg) (b : Byte) :
    SameFramer (s.receive b) (t.receive b) := by
  have ⟨hst, hbuf, hidx, hrem⟩ := h
  have hback : SameFramer { s with idx := 0 } { t with idx := 0 } := ⟨hst, hbuf, rfl, hrem⟩
  cases hs : s.fstate with
  | seeking =>
    cases hp : s.cfg.syncPolicy with
    | lookback =>
      rw [receive_lookback b hs hp, receive_lookback b (hst.trans hs) (hc ▸ hp)]
      by_cases hb : b = preambleByte
      · subst hb
        by_cases hi : s.idx = 1
        · rw [seekLookback_hit hi, seekLookback_hit (hidx.trans hi)]
          exact h.keepPreamble ..
        · rw [seekLookback_lone hi, seekLookback_lone (hidx ▸ hi)]
          exact h.keepPreamble ..
      · rw [seekLookback_other hb, seekLookback_other hb]
        exact hback
    | pairReset =>
      rw [receive_pairReset b hs hp, receive_pairReset b (hst.trans hs) (hc ▸ hp)]
      have h0 : t.byteAt 0 = s.byteAt 0 := byteAt_congr hbuf 0
      by_cases hi : s.idx = 0
      · rw [seekPair_first b hi, seekPair_first b (hidx.trans hi)]
        exact h.keepPreamble ..
      · by_cases hm : s.byteAt 0 = preambleByte ∧ b = preambleByte
        · obtain ⟨hm0, rfl⟩ := hm
          rw [seekPair_hit hi hm0, seekPair_hit (hidx ▸ hi) (h0.trans hm0)]
          exact h.keepPreamble ..
        · rw [seekPair_miss hi hm, seekPair_miss (hidx ▸ hi) (h0 ▸ hm)]
          exact hback
  | header =>
    rw [receive_header b hs, receive_header b (hst.trans hs)]
    obtain ⟨-, hbuf', hidx', -⟩ := h.store hc b
    by_cases hi : s.idx = 3
    · by_cases hb : b = 0
      · subst hb
        rw [header_zero hi, header_zero (hidx.trans hi)]
        exact (h.store hc 0).complete
      · rw [header_length b hi hb, header_length b (hidx.trans hi) hb]
        exact ⟨rfl, hbuf', hidx', rfl⟩
    · rw [header_id b hi, header_id b (hidx ▸ hi)]
      exact h.store hc b
  | body =>
    rw [receive_body b hs, receive_body b (hst.trans hs)]
    obtain ⟨hst', hbuf', hidx', -⟩ := h.store hc b
    by_cases hr : s.remaining ≤ 1
    · rw [body_done b hr, body_done b (hrem ▸ hr)]
      exact SameFramer.complete ⟨hst', hbuf', hidx', rfl⟩
    · rw [body_more b (by omega), body_more b (by omega)]
      exact ⟨hst', hbuf', hidx', congrArg (· - 1) hrem⟩

end Blind

/-- Settles O28: a faulted block leaves the framer alone, a running one moves it by `SameFramer.receive`. -/
theorem framerIgnoresTheRest : Obligations.FramerIgnoresTheRest := by
  intro s s' t t' b hsame hc hfault h h'
  rcases whileRunning_next h with ⟨hf, rfl⟩ | ⟨hf, rfl⟩
  · rw [exec_rx_running b (hfault.trans hf)] at h'
    cases h'
    exact hsame.receive hc b
  · rw [exec, execRx, whileRunning_faulted (hfault ▸ hf)] at h'
    cases h'
    exact hsame

end Sys2Proof.Machine

namespace Sys2Proof.Machine

/-! ### Transactions, the fault, and completion, 60_exceptions.md -/

section Answers

variable {s t : State} {i : Instr}

theorem newOutputs_of_trace {outs : List Output} (h : t.trace = s.trace ++ outs) : newOutputs s t = outs := by
  rw [newOutputs, h, List.drop_left]

/-- The `Result`s among the outputs of an instruction: none, or the last output alone, which if it is a refusal is
all that happened. -/
inductive AnswerEffect (i : Instr) (s t : State) : Prop where
  | none (hi : isTransaction i = false) (ho : ∀ o ∈ newOutputs s t, o.isResult = false)
  | last (outs : List Output) (r : Answer) (hi : isTransaction i = true)
      (ht : newOutputs s t = outs ++ [.result r]) (ho : ∀ o ∈ outs, o.isResult = false)
      (hr : r.isRefusal = true → AnswersOnly s t r)

/-- A frame or a byte emits nothing, one log, or the two outputs of a delivery. -/
theorem no_result_of_delivery {outs : List Output} (ht : t.trace = s.trace ++ outs)
    (h : outs = [] ∨ (∃ k a b, outs = [.log k a b]) ∨ ∃ slot tag r, outs = [.clear tag, .complete slot tag r]) :
    ∀ o ∈ newOutputs s t, o.isResult = false := by
  rw [newOutputs_of_trace ht]
  rcases h with rfl | ⟨k, a, b, rfl⟩ | ⟨slot, tag, r, rfl⟩ <;> simp [Output.isResult]

/-- A frame row is no transaction. -/
theorem isTransaction_of_isFrame (hi : isFrame i = true) : isTransaction i = false := by
  cases i with
  | register | unregister | query | send | rawsend => cases hi
  | _ => rfl

theorem Effect.answerEffect (h : Effect i s t) : AnswerEffect i s t := by
  cases h with
  | silent hi h =>
    cases h
    exact .none hi (no_result_of_delivery (List.append_nil _).symm (.inl rfl))
  | frame _ hi h _ =>
    have hn := isTransaction_of_isFrame hi
    rcases h with rfl | ⟨k, a, b, rfl⟩ | ⟨slot, tag, rest, payload, -, rfl⟩
    · exact .none hn (no_result_of_delivery (List.append_nil _).symm (.inl rfl))
    · exact .none hn (no_result_of_delivery rfl (.inr (.inl ⟨k, a, b, rfl⟩)))
    · exact .none hn (no_result_of_delivery rfl (.inr (.inr ⟨slot, tag, _, rfl⟩)))
  | rx b hi _ h =>
    subst hi
    rcases h.outside with ⟨-, ht⟩ | ⟨-, k, a, b', ht⟩ | ⟨slot, tag, rest, payload, -, -, ht⟩
    · exact .none rfl (no_result_of_delivery (ht.trans (List.append_nil _).symm) (.inl rfl))
    · exact .none rfl (no_result_of_delivery ht (.inr (.inl ⟨k, a, b', rfl⟩)))
    · exact .none rfl (no_result_of_delivery ht (.inr (.inr ⟨slot, tag, _, rfl⟩)))
  | timedOut tag slot hi _ h =>
    subst hi
    obtain ⟨-, rfl⟩ := h
    refine .none rfl ?_
    rw [newOutputs_of_trace (s := s) rfl]
    simp [Output.isResult]
  | refused r hi h =>
    have ht : t.trace = s.trace ++ [.result r] := congrArg State.trace h
    exact .last [] r hi (newOutputs_of_trace ht) (by simp) fun _ => h
  | bound _ _ hi _ _ _ _ h | unbound _ hi _ h =>
    subst hi h
    exact .last [] .ok rfl (newOutputs_of_trace rfl) (by simp) nofun
  | sent bytes hi _ h =>
    subst hi
    cases h
    exact .last [.tx bytes] .ok rfl (newOutputs_of_trace rfl) (by simp [Output.isResult]) nofun
  | overflowed _ _ _ _ _ hi _ h =>
    subst hi
    obtain ⟨-, rfl⟩ := h
    exact .last [] .encodeOverflow rfl (newOutputs_of_trace rfl) (by simp) nofun
  | issued _ id cmd addr params tag hi _ h =>
    subst hi
    obtain ⟨-, -, -, -, -, rfl⟩ := h
    exact .last [.arm tag s.cfg.timeoutMs, .tx (wireFrame id cmd (addr :: params))] (.okTag tag) rfl
      (newOutputs_of_trace rfl) (by simp [Output.isResult]) nofun
  | reset hi h =>
    subst hi
    cases h
    refine .none rfl ?_
    rw [newOutputs_of_trace (s := s) rfl]
    simp [Output.isResult]

end Answers

/-- Settles O46: the two cases of `AnswerEffect`. -/
theorem oneResultPerTransaction : Obligations.OneResultPerTransaction := by
  intro i s t h
  cases (exec_cases h).answerEffect with
  | none hi ho => exact ⟨fun ht => absurd (hi.symm.trans ht) (by decide), fun _ => ho⟩
  | last outs r hi ht ho _ =>
    exact ⟨fun _ => ⟨outs, r, ht, ho⟩, fun hn => absurd (hi.symm.trans hn) (by decide)⟩

/-- Settles O41: the refusal is the one `Result` of `AnswerEffect`. -/
theorem refusalsChangeNothing : Obligations.RefusalsChangeNothing := by
  intro i s t r h hm hr
  cases (exec_cases h).answerEffect with
  | none _ ho => exact nomatch ho _ hm
  | last outs r' _ ht ho honly =>
    rw [ht, List.mem_append, List.mem_singleton] at hm
    rcases hm with hm | hm
    · exact nomatch ho _ hm
    · cases hm
      exact honly hr

/-- R99 for what is no transaction: nothing but RESET acts on a faulted block. -/
theorem exec_faulted {i : Instr} {s : State} (hf : s.fault ≠ none) (hr : i ≠ .reset)
    (hi : isTransaction i = false) : exec i s = .next s := by
  cases i with
  | register | unregister | query | send | rawsend => cases hi
  | reset => exact absurd rfl hr
  | _ => exact whileRunning_faulted hf

/-- Settles O45: `exec_faulted`, `exec_transaction_faulted`, and the reset state has no fault. -/
theorem faultedBlockOnlyAnswers : Obligations.FaultedBlockOnlyAnswers :=
  fun _ s hf => ⟨exec_faulted hf, fun hi => exec_transaction_faulted hi hf,
    fun hi => ⟨s.resetBlock, hi ▸ exec_reset s, rfl⟩⟩

/-! #### Every instruction completes -/

section Completes

variable {s : State}

theorem whileRunning_completes (s u : State) : ∃ t, whileRunning s u = .next t := by
  by_cases hf : s.fault = none
  · exact ⟨u, whileRunning_running hf⟩
  · exact ⟨s, whileRunning_faulted hf⟩

/-- REGISTER answers whichever of its checks fails first. -/
theorem exec_register_completes (id : Byte) (slot : Nat) (hf : s.fault = none) :
    ∃ t, exec (.register id slot) s = .next t := by
  by_cases hs : slot < s.cfg.numEndpoints
  · by_cases hid : id ≤ maxId
    · by_cases hl : s.lookup id = none
      · exact ⟨_, exec_register_free hf hs hid hl⟩
      · exact ⟨_, exec_register_taken hf hs hid hl⟩
    · exact ⟨_, exec_register_idOutOfRange hf hs (BitVec.not_le.1 hid)⟩
  · exact ⟨_, exec_register_badSlot id hf (Nat.not_lt.1 hs)⟩

theorem exec_query_completes (id : Byte) (hf : s.fault = none) : ∃ t, exec (.query id) s = .next t := by
  cases hl : s.lookup id with
  | none => exact ⟨_, exec_query_free hf hl⟩
  | some slot => exact ⟨_, exec_query_registered hf hl⟩

/-- SEND answers whichever of its checks fails first, and with room it finds a free tag (R80). -/
theorem exec_send_completes (slot : Nat) (id cmd addr : Byte) (params : List Byte) (h : s.Inv) (hf : s.fault = none) :
    ∃ t, exec (.send slot id cmd addr params) s = .next t := by
  by_cases hs : slot < s.cfg.numEndpoints
  swap
  · exact ⟨_, exec_send_badSlot addr id cmd params hf (Nat.not_lt.1 hs)⟩
  by_cases hc : cmd = cmdRead ∨ cmd = cmdWrite
  swap
  · exact ⟨_, exec_send_badCommand addr hf hs id params hc⟩
  by_cases hl : s.lookup id = some slot
  swap
  · exact ⟨_, exec_send_notRegistered addr hf hs hc params hl⟩
  by_cases hp : params.length ≤ s.cfg.maxParams
  swap
  · exact ⟨_, exec_send_overflow addr hf hs hc hl (Nat.not_le.1 hp)⟩
  by_cases hq : (s.queueOf slot).length < s.cfg.queueDepth
  swap
  · exact ⟨_, exec_send_queueFull addr hf hs hc hl hp (Nat.not_lt.1 hq)⟩
  obtain ⟨tag, htag, -⟩ := freeTag_isSome h hs hq
  exact ⟨_, (exec_send_issues addr hf hs hc hl hp hq htag).trans (issue_eq ..)⟩

end Completes

/-- Settles O51: a guarded effect always answers, a faulted block answers every transaction, and a running one by the
lemma of each. -/
theorem everyInstructionCompletes : Obligations.EveryInstructionCompletes := by
  intro i s h
  by_cases hi : isTransaction i = true
  swap
  · cases i with
    | register | unregister | query | send | rawsend => exact absurd rfl hi
    | reset => exact ⟨_, exec_reset s⟩
    | _ => exact whileRunning_completes s _
  by_cases hf : s.fault = none
  swap
  · exact ⟨_, exec_transaction_faulted hi hf⟩
  cases i with
  | register id slot => exact exec_register_completes id slot hf
  | unregister id => exact ⟨_, exec_unregister_running id hf⟩
  | query id => exact exec_query_completes id hf
  | send slot id cmd addr params => exact exec_send_completes slot id cmd addr params h hf
  | rawsend bytes => exact ⟨_, exec_rawsend_running bytes hf⟩
  | _ => cases hi

/-! ### The end of a request, 43_correlator.md R84 -/

section Requests

variable {s u : State}

/-- What a `Complete` among the outputs of an instruction means: the request has left the queue it stood in, as the
oldest for a `Response`, and no other `Complete` was emitted. -/
theorem complete_cases {i : Instr} {slot : Nat} {t : Tag} {r : Resolution} (h : QueueEffect i s u)
    (hm : Output.complete slot t r ∈ newOutputs s u) :
    t ∈ s.queueOf slot ∧ u.queue = s.queue.set slot ((s.queueOf slot).erase t) ∧
      (∀ payload, r = .response payload → (s.queueOf slot).head? = some t) ∧
      (newOutputs s u).filter Output.isComplete = [.complete slot t r] := by
  cases h with
  | kept outs _ ht ho =>
    rw [newOutputs_of_trace ht] at hm
    exact nomatch ho _ hm
  | resolved slot' tag rest payload _ hs hq ht =>
    rw [newOutputs_of_trace ht] at hm ⊢
    obtain ⟨rfl, rfl, rfl⟩ : slot = slot' ∧ t = tag ∧ r = .response payload := by simpa using hm
    refine ⟨by rw [hs]; exact List.mem_cons_self, by rw [erase_oldest hs, hq], fun _ _ => ?_, rfl⟩
    rw [hs, List.head?_cons]
  | timedOut slot' tag _ hs hq ht =>
    rw [newOutputs_of_trace ht] at hm ⊢
    obtain ⟨rfl, rfl, rfl⟩ : slot = slot' ∧ t = tag ∧ r = .timeout := by simpa using hm
    exact ⟨hs, hq, nofun, rfl⟩
  | issued _ _ _ _ _ _ _ _ _ _ _ ht =>
    rw [newOutputs_of_trace ht] at hm
    simp [sentOutputs] at hm
  | reset _ _ ht =>
    rw [newOutputs_of_trace ht] at hm
    simp at hm

end Requests

/-- Settles O37: `complete_cases`, and a tag that left its queue is pending nowhere by INV5. -/
theorem completionsAreNeverRepeated : Obligations.CompletionsAreNeverRepeated := by
  intro i s u slot t r hinv h hm
  obtain ⟨hpending, hq, holdest, honly⟩ := complete_cases (exec_cases h).queueEffect hm
  exact ⟨hpending, not_pending_of_erase hpending hq hinv.queues, holdest, honly⟩

section Expiry

variable {s : State} {slot : Nat} {t : Tag}

/-- The block after the request `t` of the slot has timed out. -/
def State.afterTimeout (s : State) (slot : Nat) (t : Tag) : State :=
  (s.setQueue slot ((s.queueOf slot).erase t)).emit (.complete slot t .timeout)

theorem exec_expire_eq (hinv : s.Inv) (hf : s.fault = none) (hm : t ∈ s.queueOf slot) :
    exec (.expire t) s = .next (s.afterTimeout slot t) := exec_expire_pending hf hinv.queues.1 hm

theorem afterTimeout_not_pending (hinv : s.Inv) (hm : t ∈ s.queueOf slot) : t ∉ (s.afterTimeout slot t).pending :=
  not_pending_of_erase hm rfl hinv.queues

theorem afterTimeout_queueOf {rest : List Tag} (h : s.queueOf slot = t :: rest) :
    (s.afterTimeout slot t).queueOf slot = rest := by
  have hs : slot < s.queue.length := (queueOf_mem (h ▸ List.mem_cons_self : t ∈ s.queueOf slot)).1
  exact (queueOf_setQueue_same hs _).trans (erase_oldest h)

end Expiry

/-- Settles O43: an armed tag is pending, so it is found; the queues hold distinct tags, so it is armed only once. -/
theorem honestExpiryTimesOut : Obligations.HonestExpiryTimesOut := by
  intro s t hinv hmatch hf harmed
  obtain ⟨slot, hm⟩ := mem_pending_iff.1 (hmatch.mem_iff.1 harmed)
  refine ⟨slot, s.afterTimeout slot t, hm, exec_expire_eq hinv hf hm, rfl, afterTimeout_not_pending hinv hm, ?_⟩
  have htimers : armedTimers (s.afterTimeout slot t).trace = (armedTimers s.trace).erase t :=
    armedTimers_append s.trace [.complete slot t .timeout]
  rw [htimers]
  exact (hmatch.nodup_iff.2 hinv.queues.1).not_mem_erase

/-- Settles O38: after the expiry the queue is `rest`, and the delivery goes by that queue. -/
theorem lateResponseMissesItsRequest : Obligations.LateResponseMissesItsRequest := by
  intro s id data slot t rest hinv hf hl hq
  have hm : t ∈ s.queueOf slot := by rw [hq]; exact List.mem_cons_self
  have hq' := afterTimeout_queueOf hq
  refine ⟨s.afterTimeout slot t, _, exec_expire_eq hinv hf hm,
    exec_response_registered (s := s.afterTimeout slot t) (List.mem_cons_self ..) hf hl, ?_, ?_⟩
  · rintro rfl
    refine ⟨slotByte slot, ?_⟩
    rw [deliver_empty _ id hq']
    exact newOutputs_of_trace (List.append_assoc ..)
  · rintro t' rest' rfl
    have hs : slot < (s.afterTimeout slot t).queue.length :=
      (queueOf_mem (hq' ▸ List.mem_cons_self : t' ∈ (s.afterTimeout slot t).queueOf slot)).1
    refine ⟨payloadOf (s.afterTimeout slot t) data, ?_, ?_⟩
    · rw [deliver_oldest _ id hq']
      exact queueOf_setQueue_same hs rest'
    · rw [deliver_oldest _ id hq']
      exact newOutputs_of_trace (List.append_assoc ..)

/-- A delivery takes the oldest request from its queue. -/
theorem deliver_queueOf {s : State} {slot : Nat} {t : Tag} {rest : List Tag} (payload : List Byte) (id : Byte)
    (h : s.queueOf slot = t :: rest) : (s.deliver slot payload id).queueOf slot = rest := by
  have hs : slot < s.queue.length := (queueOf_mem (h ▸ List.mem_cons_self : t ∈ s.queueOf slot)).1
  rw [deliver_oldest payload id h]
  exact queueOf_setQueue_same hs rest

/-- Settles O39: a delivery and an expiry both take the tag from its queue, and then it is pending nowhere. -/
theorem eitherOrderResolvesOnce : Obligations.EitherOrderResolvesOnce := by
  intro s id data slot t rest hinv hf hl hq
  have hm : t ∈ s.queueOf slot := by rw [hq]; exact List.mem_cons_self
  refine ⟨⟨s.deliver slot (payloadOf s data) id, payloadOf s data,
    exec_response_registered (List.mem_cons_self ..) hf hl, deliver_queueOf _ id hq, ?_, ?_⟩,
    s.afterTimeout slot t, exec_expire_eq hinv hf hm, afterTimeout_queueOf hq, newOutputs_of_trace rfl,
    afterTimeout_not_pending hinv hm⟩
  · rw [deliver_oldest _ id hq]
    exact newOutputs_of_trace rfl
  · rw [deliver_oldest _ id hq]
    exact exec_expire_unknown hf (not_pending_of_erase hm (by rw [erase_oldest hq]) hinv.queues)

/-- Settles O40: with the id bound the response is delivered to the slot; without it it is dispatched to none. -/
theorem ackNeedsTheNewIdRegistered : Obligations.AckNeedsTheNewIdRegistered := by
  intro s new data slot t rest hf hid hs hl hq
  refine ⟨⟨(s.setEntry new (some slot)).emit (.result .ok), _, payloadOf s data, exec_register_free hf hs hid hl,
    exec_response_registered (List.mem_cons_self ..) hf (lookup_setEntry_same new (some slot)), ?_,
    deliver_queueOf _ new hq⟩, ?_⟩
  · rw [deliver_oldest (s := (s.setEntry new (some slot)).emit (.result .ok)) _ new hq]
    exact List.append_assoc ..
  · rw [exec_response_running new data hf, dispatch_unregistered _ data hl]
    rfl

end Sys2Proof.Machine

namespace Sys2Proof.Machine

/-! ### Parameter encodings of the host, 45_host_sequences.md R86 and R87 -/

/-- The sign bit of the offset register is bit 15. -/
theorem getLsbD_fifteen (w : BitVec 16) : w.getLsbD 15 = decide (32768 ≤ w.toNat) :=
  (BitVec.msb_eq_getLsbD_last w).symm.trans (BitVec.msb_eq_decide w)

theorem decOffset_eq (w : BitVec 16) :
    decOffset w = (if w.getLsbD 15 then -1 else 1) * ((w.toNat % 32768 : Nat) : Int) := by
  have hm : (w.extractLsb' 0 15).toNat = w.toNat % 32768 := by simp [BitVec.extractLsb'_toNat]
  rw [decOffset, hm]
  split
  · rw [neg_one_mul]
  · rw [one_mul]

/-- The register value of an offset in range: its sign above its magnitude. -/
theorem encOffset_eq {v : Int} (h : v.natAbs ≤ 2000) :
    ∃ w, encOffset v = some w ∧ w.toNat = (if v < 0 then 0x8000 else 0) + v.natAbs := by
  refine ⟨_, if_pos h, ?_⟩
  split
  · rw [BitVec.toNat_add, BitVec.toNat_ofNat]
    change (32768 + v.natAbs % 65536) % 65536 = 32768 + v.natAbs
    omega
  · rw [BitVec.toNat_add, BitVec.toNat_ofNat]
    change (0 + v.natAbs % 65536) % 65536 = 0 + v.natAbs
    omega

/-- Sign and magnitude read back. -/
theorem decOffset_of_toNat {v : Int} {w : BitVec 16} (h : v.natAbs ≤ 2000)
    (hw : w.toNat = (if v < 0 then 0x8000 else 0) + v.natAbs) : decOffset w = v := by
  rw [decOffset_eq, getLsbD_fifteen]
  by_cases hv : v < 0
  · rw [if_pos hv] at hw
    rw [if_pos (decide_eq_true (by omega))]
    omega
  · rw [if_neg hv] at hw
    rw [if_neg (by rw [decide_eq_true_eq]; omega)]
    omega

/-- Settles O56: in range by `encOffset_eq` and `decOffset_of_toNat`; the examples are evaluated. -/
theorem offsetsReadBack : Obligations.OffsetsReadBack := by
  refine ⟨fun v hlo hhi => ?_, fun v hv => if_neg (by omega), decOffset_eq,
    by decide, by decide, by decide, by decide⟩
  have hmag : v.natAbs ≤ 2000 := by omega
  obtain ⟨w, henc, hw⟩ := encOffset_eq hmag
  exact ⟨w, henc, hw, decOffset_of_toNat hmag hw⟩

/-! #### Angles, R86 -/

section Angles

variable {x : Rat}

theorem clamp_low (h : x ≤ 0) : clamp x 0 1023 = 0 := by
  rcases h.lt_or_eq with h | rfl
  · exact if_pos h
  · rfl

theorem clamp_high (h : 1023 ≤ x) : clamp x 0 1023 = 1023 := by
  have hlo : ¬ x < 0 := by linarith
  rcases h.lt_or_eq with h | rfl
  · exact (if_neg hlo).trans (if_pos h)
  · rfl

theorem clamp_between (h0 : 0 ≤ x) (h1 : x ≤ 1023) : clamp x 0 1023 = x :=
  (if_neg (not_lt.2 h0)).trans (if_neg (not_lt.2 h1))

theorem clamp_mem (x : Rat) : 0 ≤ clamp x 0 1023 ∧ clamp x 0 1023 ≤ 1023 := by
  rcases le_total x 0 with h | h0
  · rw [clamp_low h]; norm_num
  rcases le_total 1023 x with h | h1
  · rw [clamp_high h]; norm_num
  · rw [clamp_between h0 h1]; exact ⟨h0, h1⟩

end Angles

/-- The scaled number of R86 before the clamp. -/
def scaled (value : Rat) : Rat := f64 (f64 (value * 1024) / 200)

theorem rawOfValue_eq (value : Rat) : rawOfValue value = ⌊clamp (scaled value) 0 1023⌋ := rfl

theorem rawOfValue_mem (value : Rat) : 0 ≤ rawOfValue value ∧ rawOfValue value ≤ 1023 := by
  obtain ⟨hlo, hhi⟩ := clamp_mem (scaled value)
  rw [rawOfValue_eq]
  exact ⟨Int.floor_nonneg.2 hlo, Int.floor_le_iff.2 (by push_cast; linarith)⟩

theorem scaled_nonpos {value : Rat} (h : value ≤ 0) : scaled value ≤ 0 :=
  f64_nonpos (div_nonpos_of_nonpos_of_nonneg (f64_nonpos (by linarith)) (by norm_num))

theorem rawOfValue_low {value : Rat} (h : scaled value ≤ 0) : rawOfValue value = 0 := by
  rw [rawOfValue_eq, clamp_low h, Int.floor_zero]

theorem rawOfValue_high {value : Rat} (h : 1023 ≤ scaled value) : rawOfValue value = 1023 := by
  rw [rawOfValue_eq, clamp_high h]
  rfl

theorem rawOfValue_between {value : Rat} (h0 : 0 ≤ scaled value) (h1 : scaled value ≤ 1023) :
    rawOfValue value = ⌊scaled value⌋ := by
  rw [rawOfValue_eq, clamp_between h0 h1]

/-- A degree of a 16-bit raw value has a short significand. -/
theorem f64_degreesOfRaw {raw : Nat} (h : raw < 65536) : f64 (degreesOfRaw raw) = degreesOfRaw raw := by
  have hform : degreesOfRaw raw = ((raw * 200 : Int) : Rat) * pow2 (-10) := by
    rw [degreesOfRaw, pow2_eq_zpow]
    push_cast
    norm_num
    ring
  rw [hform]
  exact f64_exact (by omega)

/-- The way back from degrees meets whole numbers only. -/
theorem scaled_degreesOfRaw {raw : Nat} (h : raw < 65536) : scaled (degreesOfRaw raw) = raw := by
  have hnum : degreesOfRaw raw * 1024 = ((raw * 200 : Int) : Rat) := by
    rw [degreesOfRaw]
    push_cast
    ring
  have hquot : ((raw * 200 : Int) : Rat) / 200 = ((raw : Int) : Rat) := by
    push_cast
    ring
  rw [scaled, hnum, f64_intCast (by omega), hquot, f64_intCast (by omega), Int.cast_natCast]

/-- Without an offset the angle of a raw value is scaled as it stands. -/
theorem rawOfAngle_degreesOfRaw {raw : Nat} (h : raw < 65536) :
    rawOfAngle (degreesOfRaw raw) 0 = rawOfValue (degreesOfRaw raw) := by
  rw [rawOfAngle, f64_zero, add_zero, f64_degreesOfRaw h, f64_degreesOfRaw h]

/-- Settles O57: the clamp by cases of the scaled number, the floor by `Int.floor_le` and `Int.lt_floor_add_one`; the
numbers of the way back are exact. -/
theorem anglesAreClampedThenFloored : Obligations.AnglesAreClampedThenFloored := by
  refine ⟨fun angle offset => ?_, fun raw hraw => ?_, fun raw hraw => ⟨rfl, f64_degreesOfRaw hraw⟩⟩
  · intro value x
    obtain ⟨hlo, hhi⟩ := rawOfValue_mem value
    refine ⟨hlo, hhi, fun hv => rawOfValue_low (scaled_nonpos hv), rawOfValue_high, fun h0 h1 => ?_⟩
    have hraw : rawOfAngle angle offset = ⌊x⌋ := rawOfValue_between h0 h1.le
    rw [hraw]
    exact ⟨Int.floor_le x, Int.lt_floor_add_one x⟩
  · have hscaled := scaled_degreesOfRaw (raw := raw) (by omega)
    have h1 : ((raw : Nat) : Rat) ≤ 1023 := by exact_mod_cast hraw
    rw [rawOfAngle_degreesOfRaw (by omega),
      rawOfValue_between (by rw [hscaled]; exact Nat.cast_nonneg raw) (by rw [hscaled]; exact h1), hscaled,
      Int.floor_natCast]

/-! ### An await, 45_host_sequences.md -/

/-- A `Complete` of the awaited tag, behind the `Clear` of its timer at most, ends the await. -/
theorem foldl_observe_complete {α : Type} {t : Tag} {next : Resolution → HostOp α} {outs : List Output} {slot : Nat}
    {r : Resolution} (h : outs = [.complete slot t r] ∨ outs = [.clear t, .complete slot t r]) :
    outs.foldl HostOp.observe (.await t next) = next r := by
  have hlast : (HostOp.await t next).observe (.complete slot t r) = next r :=
    (observe_complete t t next slot r).trans (if_pos rfl)
  have hclear : (HostOp.await t next).observe (.clear t) = .await t next := observe_other nofun
  rcases h with rfl | rfl
  · exact hlast
  · rw [List.foldl_cons, hclear]
    exact hlast

/-- Settles O58: outputs without the `Complete` leave the await (`foldl_observe_other`); a `Complete` is the last
output of its step (`complete_is_last`), so it ends it. -/
theorem awaitEndsAtItsCompletion : Obligations.AwaitEndsAtItsCompletion := by
  intro α t next s u i _ h c
  have hmove : c.move (.event i) = .next ⟨u, (newOutputs s u).foldl HostOp.observe (.await t next)⟩ :=
    event_next (c := c) h
  refine ⟨rfl, fun hno => ?_, fun slot r hm => ?_⟩
  · rw [hmove, foldl_observe_other hno]
  · rw [hmove, foldl_observe_complete (complete_is_last h hm)]

/-! ### The operations of an endpoint, 45_host_sequences.md R88 to R92 and R94 -/

section Operations

variable {α : Type} {s : State} {slot : Nat} {id : Byte}

/-- How an awaited request goes on: with its payload, or at its end. -/
def onResolution (onTimeout : Ending α) (k : List Byte → HostOp α) : Resolution → HostOp α
  | .response p => k p
  | .timeout => .ended onTimeout

theorem awaitTag_eq (t : Tag) (onTimeout : Ending α) (k : List Byte → HostOp α) :
    awaitTag t onTimeout k = .await t (onResolution onTimeout k) := rfl

/-- A request that the block accepts is sent and its tag awaited; the response goes on, the timeout ends. -/
theorem sends_request_resolved {cmd addr : Byte} {params : List Byte} {onTimeout : Ending α}
    {k : List Byte → HostOp α} (h : s.Accepts slot id params.length) (hc : isSendable cmd = true) :
    ∃ u next, Sends (request (.send slot id cmd addr params) onTimeout k) s slot id cmd addr params [] [] u next ∧
      (∀ p, next (.response p) = k p) ∧ next .timeout = .ended onTimeout := by
  obtain ⟨u, -, hsends⟩ := sends_request (addr := addr) (onTimeout := onTimeout) (next := k) h hc
  exact ⟨u, onResolution onTimeout k, hsends, fun _ => rfl, rfl⟩

/-- An awaited write of a register (R89). -/
theorem sends_write {params : List Byte} (r : RegAddr) (next : HostOp Unit) (h : s.Accepts slot id params.length) :
    ∃ u k, Sends (write slot id r params next) s slot id cmdWrite r.code params [] [] u k ∧
      (∀ p, k (.response p) = next) ∧ k .timeout = .ended (.failed .timeout) :=
  sends_request_resolved h rfl

theorem decodeStatus_short : ∀ {p : List Byte}, p.length < 2 → decodeStatus p = .failed .shortResponse
  | [], _ => rfl
  | [_], _ => rfl

theorem decodeOffset_short : ∀ {p : List Byte}, p.length < 2 → decodeOffset p = .failed .shortResponse
  | [], _ => rfl
  | [_], _ => rfl

theorem decodeOffset_long (hi lo : Byte) (rest : List Byte) :
    decodeOffset (hi :: lo :: rest) = .result (decOffset (BitVec.ofNat 16 (unbe16 hi lo))) := by
  rw [unbe16_eq_operand16, BitVec.ofNat_toNat, BitVec.setWidth_eq]
  rfl

/-- R91: a read of the position. -/
theorem sends_readStatus {params : List Byte} (h : s.Accepts slot id params.length) :
    ∃ u next, Sends (readStatus slot id params) s slot id 0x02 56 params [] [] u next ∧
      (∀ hi lo rest, next (.response (hi :: lo :: rest)) = .ended (.result ((unbe16 hi lo : Rat) * 200 / 1024))) ∧
      (∀ p, p.length < 2 → next (.response p) = .ended (.failed .shortResponse)) ∧
      next .timeout = .ended (.failed .timeout) := by
  obtain ⟨u, next, hsends, hresponse, htimeout⟩ := sends_request_resolved (cmd := cmdRead)
    (addr := RegAddr.code .presentPosition) (onTimeout := .failed .timeout)
    (k := fun p => .ended (decodeStatus p)) h rfl
  refine ⟨u, next, hsends, fun hi lo rest => hresponse _, fun p hp => ?_, htimeout⟩
  rw [hresponse, decodeStatus_short hp]

/-- R92: a read of the offset. -/
theorem sends_readOffset {params : List Byte} (h : s.Accepts slot id params.length) :
    ∃ u next, Sends (readOffset slot id params) s slot id 0x02 31 params [] [] u next ∧
      (∀ hi lo rest, next (.response (hi :: lo :: rest)) =
        .ended (.result (decOffset (BitVec.ofNat 16 (unbe16 hi lo))))) ∧
      (∀ p, p.length < 2 → next (.response p) = .ended (.failed .shortResponse)) ∧
      next .timeout = .ended (.failed .timeout) := by
  obtain ⟨u, next, hsends, hresponse, htimeout⟩ := sends_request_resolved (cmd := cmdRead)
    (addr := RegAddr.code .offset) (onTimeout := .failed .timeout)
    (k := fun p => .ended (decodeOffset p)) h rfl
  refine ⟨u, next, hsends, fun hi lo rest => ?_, fun p hp => ?_, htimeout⟩
  · rw [hresponse, decodeOffset_long]
  · rw [hresponse, decodeOffset_short hp]

/-- R91: `request_read_status` gives the tag of its request. -/
theorem resume_requestReadStatus {params : List Byte} (h : s.Accepts slot id params.length) :
    ∃ t u, s.freeTag = some t ∧ exec (.send slot id 0x02 56 params) s = .next u ∧
      (requestReadStatus slot id params).resume s = .next ⟨u, .ended (.result t)⟩ := by
  obtain ⟨t, u, hu⟩ := issued_of_accepts (cmd := cmdRead) (addr := RegAddr.code .presentPosition) h rfl
  exact ⟨t, u, hu.tag, hu.answered, resume_send hu⟩

/-- R92: the three writes of `set_offset_angle`, each sent only after the response to the one before. -/
theorem sends_setOffset {v : Int} {w : BitVec 16} (hw : encOffset v = some w) (h : s.Accepts slot id 1) :
    ∃ u next, Sends (setOffset slot id v) s slot id 0x03 48 [0] [] [] u next ∧
      next .timeout = .ended (.failed .timeout) ∧
      ∀ p s', s'.Accepts slot id 2 → ∃ u' next',
        Sends (next (.response p)) s' slot id 0x03 31 (be16 w) [] [] u' next' ∧
        next' .timeout = .ended (.failed .timeout) ∧
        ∀ p' s'', s''.Accepts slot id 1 → ∃ u'' next'',
          Sends (next' (.response p')) s'' slot id 0x03 48 [1] [] [] u'' next'' ∧
          (∀ p'', next'' (.response p'') = .ended (.result ())) ∧ next'' .timeout = .ended (.failed .timeout) := by
  rw [setOffset, hw]
  obtain ⟨u, next, hsends, hresponse, htimeout⟩ := sends_write (params := [0]) .lock
    (write slot id .offset (be16 w) (write slot id .lock [1] succeed)) h
  refine ⟨u, next, hsends, htimeout, fun p s' h' => ?_⟩
  obtain ⟨u', next', hsends', hresponse', htimeout'⟩ := sends_write (params := be16 w) .offset
    (write slot id .lock [1] succeed) h'
  refine ⟨u', next', by rw [hresponse]; exact hsends', htimeout', fun p' s'' h'' => ?_⟩
  obtain ⟨u'', next'', hsends'', hresponse'', htimeout''⟩ := sends_write (params := [1]) .lock succeed h''
  exact ⟨u'', next'', by rw [hresponse']; exact hsends'', hresponse'', htimeout''⟩

/-- R90: `set_angle_in_time` in two frames, the second sent only after the response to the first. -/
theorem sends_setAngleInTime_second {angle offset : Rat} {time : List Byte} (h : s.Accepts slot id 2) :
    ∃ u next, Sends (setAngleInTime slot id angle offset .secondFrame time) s slot id 0x03 42
        (positionBytes angle offset) [] [] u next ∧
      next .timeout = .ended (.failed .timeout) ∧
      ∀ p s', s'.Accepts slot id time.length → ∃ u' next',
        Sends (next (.response p)) s' slot id 0x03 44 time [] [] u' next' ∧
        (∀ p', next' (.response p') = .ended (.result ())) ∧ next' .timeout = .ended (.failed .timeout) := by
  obtain ⟨u, next, hsends, hresponse, htimeout⟩ := sends_write (params := positionBytes angle offset) .goalPosition
    (write slot id .goalTime time succeed) h
  refine ⟨u, next, hsends, htimeout, fun p s' h' => ?_⟩
  obtain ⟨u', next', hsends', hresponse', htimeout'⟩ := sends_write (params := time) .goalTime succeed h'
  exact ⟨u', next', by rw [hresponse]; exact hsends', hresponse', htimeout'⟩

/-- R88: constructing an endpoint under a free id binds it. -/
theorem resume_construct_free (hf : s.fault = none) (hs : slot < s.cfg.numEndpoints) (hid : id ≤ 0xFC)
    (hl : s.lookup id = none) :
    ∃ u, (construct slot id).resume s = .next ⟨u, .ended (.result ())⟩ ∧ u.lookup id = some slot ∧
      newOutputs s u = [.result .ok] :=
  ⟨_, (resume_registerId_free hf hs hid hl).trans (resume_succeed _), lookup_setEntry_same id (some slot),
    newOutputs_of_trace rfl⟩

/-- R94: a request with too many parameters ends the operation, whatever was to follow it. -/
theorem resume_send_overflow {cmd : Byte} (addr : Byte) {params : List Byte} (next : Tag → HostOp α)
    (hf : s.fault = none) (hs : slot < s.cfg.numEndpoints) (hc : cmd = cmdRead ∨ cmd = cmdWrite)
    (hl : s.lookup id = some slot) (hp : s.cfg.maxParams < params.length) :
    ∃ u, (send (.send slot id cmd addr params) next).resume s = .next ⟨u, .ended (.failed .encodeOverflow)⟩ ∧
      newOutputs s u = [.result .encodeOverflow] ∧ u.fault = some .encodeOverflow :=
  ⟨_, resume_transact (outs := []) (exec_send_overflow addr hf hs hc hl hp) rfl, newOutputs_of_trace rfl, rfl⟩

end Operations

/-- Settles O59: one lemma per operation, the plain writes by `sends_write`. -/
theorem operationsSendAwaitAndEnd : Obligations.OperationsSendAwaitAndEnd := by
  intro s slot id
  refine ⟨fun enabled h => sends_write (params := [if enabled then 1 else 0]) .torqueEnable succeed h,
    fun angle offset h => sends_write (params := positionBytes angle offset) .goalPosition succeed h,
    fun angle offset time h => sends_write (params := positionBytes angle offset ++ time) .goalPosition succeed ?_,
    fun angle offset time h => sends_setAngleInTime_second h,
    fun params h => ⟨sends_readStatus h, sends_readOffset h, resume_requestReadStatus h⟩,
    fun v w hw h => sends_setOffset hw h, fun v hv => ?_,
    fun hf hs hid => ⟨resume_construct_free hf hs hid, resume_registerId_taken hf hs hid⟩,
    fun α cmd addr params next hf hs hc hl hp => resume_send_overflow addr next hf hs hc hl hp⟩
  · rw [List.length_append]
    exact h
  · rw [setOffset, hv]
    rfl

/-! ### Changing an id, 45_host_sequences.md R93 -/

section Flash

variable {s : State} {slot : Nat} {old new : Byte}

/-- The last part of `flash_id`: LOCK=1 under the new id, and only then the old id is freed. -/
def flashLock (slot : Nat) (old new : Byte) : HostOp Unit :=
  request (writeReq slot new .lock [1]) (.unstated .timeout) fun _ => unregisterId old succeed

/-- The part of `flash_id` behind LOCK=0: the ID write, the registration, and the await. -/
def flashWrite (slot : Nat) (old new : Byte) : HostOp Unit :=
  send (writeReq slot old .id [new]) fun t =>
    registerId new slot (.unstated .idAlreadyRegistered) <|
      awaitTag t (.unstated .timeout) fun _ => flashLock slot old new

theorem flashId_eq (slot : Nat) (old new : Byte) :
    flashId slot old new =
      checkFree new (request (writeReq slot old .lock [0]) (.unstated .timeout) fun _ => flashWrite slot old new) := rfl

/-- What the block accepts it still accepts behind an output. -/
theorem accepts_emit {n : Nat} (o : Output) (h : s.Accepts slot old n) : (s.emit o).Accepts slot old n :=
  ⟨⟨h.inv.valid, h.inv.sized, h.inv.framer, h.inv.table, h.inv.queues⟩, h.running, h.slot_exists, h.registered,
    h.fits, h.room⟩

/-- R93, steps 1 and 2: a free new id is reported, and LOCK=0 is sent under the old id. -/
theorem sends_flashId (h : s.Accepts slot old 1) (hl : s.lookup new = none) :
    ∃ u next, Sends (flashId slot old new) s slot old 0x03 48 [0] [.result .notRegistered] [] u next ∧
      (∀ p, next (.response p) = flashWrite slot old new) ∧ next .timeout = .ended (.unstated .timeout) := by
  obtain ⟨t, u, hu⟩ := issued_of_accepts (cmd := cmdWrite) (addr := RegAddr.code .lock) (params := [0])
    (accepts_emit (.result .notRegistered) h) rfl
  refine ⟨u, onResolution (.unstated .timeout) fun _ => flashWrite slot old new,
    ⟨t, _, hu.tag, encodeFrame_ok h.fits, ?_, newOutputs_of_trace ?_, hu.queue⟩, fun _ => rfl, rfl⟩
  · rw [flashId_eq, resume_checkFree_free h.running hl, request, writeReq, resume_send hu, awaitTag_eq, resume_await]
  · rw [hu.trace, List.append_nil]
    exact List.append_assoc ..

theorem resume_flashWrite {t : Tag} {u : State} (hu : Issued s slot old cmdWrite (RegAddr.code .id) [new] t u) :
    (flashWrite slot old new).resume s =
      (registerId new slot (.unstated .idAlreadyRegistered)
        (awaitTag t (.unstated .timeout) fun _ => flashLock slot old new)).resume u := resume_send hu

/-- R93, step 4, refused. -/
theorem resume_flashWrite_taken (h : s.Accepts slot old 1) (hl : s.lookup new ≠ none) (hid : new ≤ 0xFC) :
    ∃ u, (flashWrite slot old new).resume s = .next ⟨u, .ended (.unstated .idAlreadyRegistered)⟩ := by
  obtain ⟨t, u, hu⟩ := issued_of_accepts (cmd := cmdWrite) (addr := RegAddr.code .id) (params := [new]) h rfl
  refine ⟨_, (resume_flashWrite hu).trans (resume_registerId_taken hu.fault ?_ hid ?_)⟩
  · rw [hu.cfg]; exact h.slot_exists
  · rw [lookup_congr hu.table]; exact hl

/-- R93, steps 3 to 5: the ID write, and with no event between them the registration of the new id, before its
completion is awaited. -/
theorem sends_flashWrite (h : s.Accepts slot old 1) (hl : s.lookup new = none) (hid : new ≤ 0xFC) :
    ∃ u next, Sends (flashWrite slot old new) s slot old 0x03 5 [new] [] [.result .ok] u next ∧
      u.lookup new = some slot ∧ u.lookup old = some slot ∧
      (∀ p, next (.response p) = flashLock slot old new) ∧ next .timeout = .ended (.unstated .timeout) := by
  obtain ⟨t, u, hu⟩ := issued_of_accepts (cmd := cmdWrite) (addr := RegAddr.code .id) (params := [new]) h rfl
  have hne : old ≠ new := by
    rintro rfl
    exact nomatch h.registered.symm.trans hl
  refine ⟨(u.setEntry new (some slot)).emit (.result .ok),
    onResolution (.unstated .timeout) fun _ => flashLock slot old new,
    ⟨t, _, hu.tag, encodeFrame_ok h.fits, ?_, newOutputs_of_trace ?_, hu.queue⟩,
    lookup_setEntry_same new (some slot), ?_, fun _ => rfl, rfl⟩
  · rw [resume_flashWrite hu, resume_registerId_free hu.fault (by rw [hu.cfg]; exact h.slot_exists) hid
      (by rw [lookup_congr hu.table]; exact hl), awaitTag_eq, resume_await]
  · rw [State.emit_trace, State.setEntry_trace, hu.trace]
    exact List.append_assoc ..
  · refine (lookup_setEntry_other (s := u) (some slot) hne).trans ?_
    rw [lookup_congr hu.table, h.registered]

/-- R93, step 6: LOCK=1 is sent under the new id, and the table stays as it is. -/
theorem sends_flashLock (h : s.Accepts slot new 1) :
    ∃ u next, Sends (flashLock slot old new) s slot new 0x03 48 [1] [] [] u next ∧ u.lookup old = s.lookup old ∧
      (∀ p, next (.response p) = unregisterId old succeed) ∧ next .timeout = .ended (.unstated .timeout) := by
  obtain ⟨u, htable, hsends⟩ := sends_request (cmd := cmdWrite) (addr := RegAddr.code .lock) (params := [1])
    (onTimeout := .unstated .timeout) (next := fun _ => unregisterId old succeed) h rfl
  exact ⟨u, _, hsends, lookup_congr htable old, fun _ => rfl, rfl⟩

/-- R93, step 7: the old id is freed. -/
theorem resume_unregister_old (hf : s.fault = none) :
    ∃ v, (unregisterId old succeed).resume s = .next ⟨v, .ended (.result ())⟩ ∧ newOutputs s v = [.result .ok] ∧
      v.lookup old = none :=
  ⟨_, (resume_unregisterId hf).trans (resume_succeed _), newOutputs_of_trace rfl, lookup_setEntry_same old none⟩

end Flash

/-- Settles O60: the steps of R93 in their order, each by its lemma. -/
theorem flashIdRegistersBeforeAwaiting : Obligations.FlashIdRegistersBeforeAwaiting := by
  refine fun s slot old new => ⟨fun other hf hl => resume_checkFree_taken hf hl, fun h hl => ?_⟩
  obtain ⟨u, next, hsends, hresponse, htimeout⟩ := sends_flashId h hl
  refine ⟨u, next, hsends, htimeout, fun p s' h' => ?_⟩
  rw [hresponse]
  refine ⟨resume_flashWrite_taken h', fun hl' hid => ?_⟩
  obtain ⟨u', next', hsends', hnew, hold, hresponse', htimeout'⟩ := sends_flashWrite h' hl' hid
  refine ⟨u', next', hsends', hnew, hold, htimeout', fun p' s'' h'' => ?_⟩
  rw [hresponse']
  obtain ⟨u'', next'', hsends'', hkept, hresponse'', htimeout''⟩ := sends_flashLock (old := old) h''
  refine ⟨u'', next'', hsends'', hkept, htimeout'', fun p'' z hf => ?_⟩
  rw [hresponse'']
  exact resume_unregister_old hf

end Sys2Proof.Machine
end
